-- ==== Sys2Proof/Word.lean ====
section
/-! DEFINITION. The word types of GFMUL128: data words, products, transaction words, register numbers. -/

namespace Sys2Proof

/-- A 128-bit word: a register, an operand, a result, a command word (00_scope.md R5, R6). -/
abbrev Word := BitVec 128

/-- A 256-bit word: an unreduced product (42_multiplier.md R85). -/
abbrev WideWord := BitVec 256

/-- A 133-bit host transaction, WE ++ ADDR ++ DATA (30_encoding.md R49). -/
abbrev TxnWord := BitVec 133

/-- A 4-bit register number (20_memory.md R40). -/
abbrev RegNum := BitVec 4

/-- `hi64(w) = w[127:64]` (R6). -/
def hi64 (w : Word) : BitVec 64 := w.extractLsb' 64 64

/-- `lo64(w) = w[63:0]` (R6). -/
def lo64 (w : Word) : BitVec 64 := w.extractLsb' 0 64

/-- Bits 255:128 of a product, the source's high128 or overflow (R85). -/
def high128 (p : WideWord) : Word := p.extractLsb' 128 128

/-- Bits 127:0 of a product, the source's low128 (R85). -/
def low128 (p : WideWord) : Word := p.extractLsb' 0 128

end Sys2Proof
end

