-- ==== Sys2Proof/Syntax.lean ====
section
/-! DEFINITION. The instructions of GFMUL128: one constructor per row of spec/opcode_table.json. -/

namespace Sys2Proof

/-- The commands that can be issued and stay pending until they complete (10_state.md R10, R24). -/
inductive Op where
  | enc
  | dec
  | gmul
  | clmul
  | red
deriving DecidableEq, Repr

/-- The instructions: nine host transactions (format TXN) and six commands (format CMDW), 30_encoding.md R48.
A read's DATA field carries nothing and is absent here (R49; log entry 5). -/
inductive Instr where
  /-- REGRD, read the register of number `addr` (R64). -/
  | regrd (addr : RegNum)
  /-- REGWR_OPA, write OPA (R65). -/
  | regwrOpa (data : Word)
  /-- REGWR_OPB, write OPB (R66). -/
  | regwrOpb (data : Word)
  /-- REGWR_RES, an ignored write to register number 2 (R67). -/
  | regwrRes (data : Word)
  /-- REGWR_RESH, an ignored write to register number 3 (R67). -/
  | regwrResh (data : Word)
  /-- REGWR_CMD, write the command word `data` (R69). -/
  | regwrCmd (data : Word)
  /-- REGWR_STATUS, write one to clear ILL and OVR (R68). -/
  | regwrStatus (data : Word)
  /-- REGWR_RSV_6_7, an ignored write to reserved number 6 or 7 (R67). -/
  | regwrRsv67 (addr : RegNum) (data : Word)
  /-- REGWR_RSV_8_15, an ignored write to a reserved number 8 to 15 (R67). -/
  | regwrRsv815 (addr : RegNum) (data : Word)
  /-- NOP, command word 0 (R72). -/
  | nop
  /-- ENC, command word 1 (R80). -/
  | enc
  /-- DEC, command word 2 (R81). -/
  | dec
  /-- GMUL, command word 3 (R89). -/
  | gmul
  /-- CLMUL, command word 4 (R90). -/
  | clmul
  /-- RED, command word 5 (R99). -/
  | red
deriving DecidableEq, Repr

/-- The instruction that issues a command (30_encoding.md R51). -/
def Op.instr : Op → Instr
  | .enc => .enc
  | .dec => .dec
  | .gmul => .gmul
  | .clmul => .clmul
  | .red => .red

/-- An instruction's row of the opcode table, by its mnemonic. -/
def Instr.mnemonic : Instr → String
  | .regrd _ => "REGRD"
  | .regwrOpa _ => "REGWR_OPA"
  | .regwrOpb _ => "REGWR_OPB"
  | .regwrRes _ => "REGWR_RES"
  | .regwrResh _ => "REGWR_RESH"
  | .regwrCmd _ => "REGWR_CMD"
  | .regwrStatus _ => "REGWR_STATUS"
  | .regwrRsv67 _ _ => "REGWR_RSV_6_7"
  | .regwrRsv815 _ _ => "REGWR_RSV_8_15"
  | .nop => "NOP"
  | .enc => "ENC"
  | .dec => "DEC"
  | .gmul => "GMUL"
  | .clmul => "CLMUL"
  | .red => "RED"

end Sys2Proof
end

