-- ==== Sys2Proof/WellFormed.lean ====
section
/-! DEFINITION. Which instructions the encoding has. -/

namespace Sys2Proof

/-- The ADDR values a row covers (opcode_table.json, 20_memory.md R40): REGWR_RSV_6_7 has 6 and 7,
REGWR_RSV_8_15 has 8 to 15. Every other operand takes every value of its field. -/
def Instr.wf : Instr → Bool
  | .regwrRsv67 addr _ => addr == 6#4 || addr == 7#4
  | .regwrRsv815 addr _ => addr.getLsbD 3
  | .regrd _ => true
  | .regwrOpa _ => true
  | .regwrOpb _ => true
  | .regwrRes _ => true
  | .regwrResh _ => true
  | .regwrCmd _ => true
  | .regwrStatus _ => true
  | .nop => true
  | .enc => true
  | .dec => true
  | .gmul => true
  | .clmul => true
  | .red => true

end Sys2Proof
end

