-- ==== Sys2Proof/Decode.lean ====
section
/-! DEFINITION. Decoding and encoding of the two formats, TXN and CMDW (30_encoding.md). -/

namespace Sys2Proof

/-- Why a word is no instruction. -/
inductive Reject where
  /-- A command word with a reserved OP or a reserved bit set (R52, R53): written to CMD it sets ILL. -/
  | illegalCommand
  /-- A word with a bit above its format's width, which no transaction or command word has (R49, R50). -/
  | tooWide
  /-- A number of bits that is neither format's (R57). -/
  | noFormat
deriving DecidableEq, Repr

/-- A word of one of the two formats (R48). -/
inductive Code where
  | txn (w : TxnWord)
  | cmdw (c : Word)
deriving DecidableEq, Repr

/-! ## Format TXN -/

/-- Bit 132, WE (R49). -/
def txnWe (w : TxnWord) : Bool := w.extractLsb' 132 1 == 1#1

/-- Bits 131:128, ADDR (R49). -/
def txnAddr (w : TxnWord) : RegNum := w.extractLsb' 128 4

/-- Bits 127:0, DATA (R49). -/
def txnData (w : TxnWord) : Word := w.extractLsb' 0 128

/-- HostWrite(addr, data) as a transaction word. -/
def writeTxn (addr : RegNum) (data : Word) : TxnWord := 1#1 ++ addr ++ data

/-- HostRead(addr) as a transaction word, with a DATA field of zeros. -/
def readTxn (addr : RegNum) : TxnWord := 0#1 ++ addr ++ 0#128

/-- The instruction of a write to register number `addr` (R61). -/
def decodeWrite (addr : RegNum) (data : Word) : Instr :=
  match addr.toNat with
  | 0 => .regwrOpa data
  | 1 => .regwrOpb data
  | 2 => .regwrRes data
  | 3 => .regwrResh data
  | 4 => .regwrCmd data
  | 5 => .regwrStatus data
  | 6 => .regwrRsv67 addr data
  | 7 => .regwrRsv67 addr data
  | _ => .regwrRsv815 addr data

/-- The decoder of transaction words: total, it never refuses (R61). -/
def decodeTxn (w : TxnWord) : Instr :=
  if txnWe w then decodeWrite (txnAddr w) (txnData w) else .regrd (txnAddr w)

/-! ## Format CMDW -/

/-- Bits 3:0, OP (R50). -/
def cmdOp (c : Word) : BitVec 4 := c.extractLsb' 0 4

/-- Bits 127:4, RSV (R50). -/
def cmdRsv (c : Word) : BitVec 124 := c.extractLsb' 4 124

/-- What a command word names (R51 to R53). -/
inductive Verdict where
  | illegal
  | nop
  | issue (op : Op)
deriving DecidableEq, Repr

/-- A command word is legal if and only if RSV = 0 and OP is one of 0 to 5 (R51). -/
def verdict (c : Word) : Verdict :=
  if cmdRsv c != 0#124 then .illegal
  else
    match (cmdOp c).toNat with
    | 0 => .nop
    | 1 => .issue .enc
    | 2 => .issue .dec
    | 3 => .issue .gmul
    | 4 => .issue .clmul
    | 5 => .issue .red
    | _ => .illegal

/-- The decoder of command words; a word that matches no CMDW row is illegal (R52, R53). -/
def decodeCmdw (c : Word) : Except Reject Instr :=
  match verdict c with
  | .illegal => .error .illegalCommand
  | .nop => .ok .nop
  | .issue op => .ok op.instr

/-! ## Both formats -/

/-- The decoder. -/
def decode : Code → Except Reject Instr
  | .txn w => .ok (decodeTxn w)
  | .cmdw c => decodeCmdw c

/-- A number of bits and a word, as one of the two formats: up to 128 bits a command word, 129 to 136 (133 in whole
bytes) a transaction word (R57; log entry 15). -/
def codeOfWord (nbits w : Nat) : Except Reject Code :=
  if nbits ≤ 128 then
    if w < 2 ^ 128 then .ok (.cmdw (BitVec.ofNat 128 w)) else .error .tooWide
  else if nbits ≤ 136 then
    if w < 2 ^ 133 then .ok (.txn (BitVec.ofNat 133 w)) else .error .tooWide
  else .error .noFormat

/-- Decoding of any word of any length, rejecting by name. -/
def decodeWord (nbits w : Nat) : Except Reject Instr :=
  match codeOfWord nbits w with
  | .error r => .error r
  | .ok code => decode code

/-- The instruction the decoder reads from a word numbered as spec/opcode_table.json numbers it. -/
def decodeTableWord (nbits w : Nat) : Option Instr :=
  match decodeWord nbits w with
  | .error _ => none
  | .ok i => some i

/-- The transaction on the port that carries a word: a command word is the DATA of a write to CMD (R48). -/
def Code.onPort : Code → TxnWord
  | .txn w => w
  | .cmdw c => writeTxn 4#4 c

/-- The transaction that a table word stands for; a length of more than 128 bits is a transaction word, and the port
has 133 wires (log entry 13). -/
def txnOfTableWord (nbits w : Nat) : TxnWord :=
  if nbits ≤ 128 then writeTxn 4#4 (BitVec.ofNat 128 w) else BitVec.ofNat 133 w

/-! ## The encoder -/

/-- The word of an instruction (R49, R51, R58). -/
def encode : Instr → Code
  | .regrd addr => .txn (readTxn addr)
  | .regwrOpa data => .txn (writeTxn 0#4 data)
  | .regwrOpb data => .txn (writeTxn 1#4 data)
  | .regwrRes data => .txn (writeTxn 2#4 data)
  | .regwrResh data => .txn (writeTxn 3#4 data)
  | .regwrCmd data => .txn (writeTxn 4#4 data)
  | .regwrStatus data => .txn (writeTxn 5#4 data)
  | .regwrRsv67 addr data => .txn (writeTxn addr data)
  | .regwrRsv815 addr data => .txn (writeTxn addr data)
  | .nop => .cmdw 0#128
  | .enc => .cmdw 1#128
  | .dec => .cmdw 2#128
  | .gmul => .cmdw 3#128
  | .clmul => .cmdw 4#128
  | .red => .cmdw 5#128

/-- The command word of a command that can be issued, `zext_128(OP)` (R51). -/
def Op.word : Op → Word
  | .enc => 1#128
  | .dec => 2#128
  | .gmul => 3#128
  | .clmul => 4#128
  | .red => 5#128

/-! ## The opcode table -/

/-- A row of spec/opcode_table.json: a word `w` selects it when `w AND mask = pattern` (30_encoding.md, preface). -/
structure Row (n : Nat) where
  mnemonic : String
  pattern : BitVec n
  mask : BitVec n
deriving DecidableEq, Repr

/-- Does a word select a row? -/
def Row.selects {n : Nat} (r : Row n) (w : BitVec n) : Bool := (w &&& r.mask) == r.pattern

/-- The nine TXN rows. -/
def txnRows : List (Row 133) :=
  [ ⟨"REGRD", 0x0000000000000000000000000000000000#133, 0x1000000000000000000000000000000000#133⟩,
    ⟨"REGWR_OPA", 0x1000000000000000000000000000000000#133, 0x1f00000000000000000000000000000000#133⟩,
    ⟨"REGWR_OPB", 0x1100000000000000000000000000000000#133, 0x1f00000000000000000000000000000000#133⟩,
    ⟨"REGWR_RES", 0x1200000000000000000000000000000000#133, 0x1f00000000000000000000000000000000#133⟩,
    ⟨"REGWR_RESH", 0x1300000000000000000000000000000000#133, 0x1f00000000000000000000000000000000#133⟩,
    ⟨"REGWR_CMD", 0x1400000000000000000000000000000000#133, 0x1f00000000000000000000000000000000#133⟩,
    ⟨"REGWR_STATUS", 0x1500000000000000000000000000000000#133, 0x1f00000000000000000000000000000000#133⟩,
    ⟨"REGWR_RSV_6_7", 0x1600000000000000000000000000000000#133, 0x1e00000000000000000000000000000000#133⟩,
    ⟨"REGWR_RSV_8_15", 0x1800000000000000000000000000000000#133, 0x1800000000000000000000000000000000#133⟩ ]

/-- The six CMDW rows. -/
def cmdwRows : List (Row 128) :=
  [ ⟨"NOP", 0#128, BitVec.allOnes 128⟩,
    ⟨"ENC", 1#128, BitVec.allOnes 128⟩,
    ⟨"DEC", 2#128, BitVec.allOnes 128⟩,
    ⟨"GMUL", 3#128, BitVec.allOnes 128⟩,
    ⟨"CLMUL", 4#128, BitVec.allOnes 128⟩,
    ⟨"RED", 5#128, BitVec.allOnes 128⟩ ]

end Sys2Proof
end

