-- ==== Sys2Proof/Config.lean ====
section
/-! DEFINITION. The implementation parameters of 00_scope.md R5. GFMUL128 has one configuration (R2). -/

namespace Sys2Proof

/-- FIELD_POLY: x^128 + x^7 + x^2 + x + 1 as the 129-bit constant 2^128 + 0x87 (R4, R5). -/
def Config.fieldPoly : BitVec 129 := 0x100000000000000000000000000000087#129

/-- FIELD_POLY less its leading term: x^128 is congruent to this word, x^7 + x^2 + x + 1 (43_reduction.md R94). -/
def Config.fieldPolyLow : Word := 0x87#128

/-- An unknown natural number per command: what LAT_op has above 1. The spec leaves it OPEN (R5, D13). -/
opaque Config.latencyBeyondOne : Op → Nat

/-- LAT_op, the completion latency in clock cycles of a command: at least 1 and independent of operand values
(R5, R124). No rule of the model reads it (R125): time is not modelled, and the interleaving is free (log entry 10). -/
def Config.latOp (op : Op) : Nat := Config.latencyBeyondOne op + 1

end Sys2Proof
end

