-- ==== Sys2Proof/Machine/Field.lean ====
section
/-! DEFINITION. The arithmetic of GFMUL128: the codec (41_codec.md), the carryless product (42_multiplier.md), the
reduction (43_reduction.md), and the result of each command (40_command_interface.md R74). All of it is carryless
(00_scope.md R9). -/

namespace Sys2Proof.Machine

/-! ## The codec -/

/-- `bitrev_n(v)[i] = v[n-1-i]` (R7). -/
def bitrev {n : Nat} (v : BitVec n) : BitVec n := v.reverse

/-- External to internal form: the full 128-bit bit reversal (R78). -/
def encodeElement (w : Word) : Word := bitrev w

/-- Internal to external form: the full 128-bit bit reversal (R78). -/
def decodeElement (v : Word) : Word := bitrev v

/-- Bytes appended below a word, the first byte most significant. -/
def packBytesOnto (w : Word) : List (BitVec 8) → Word
  | [] => w
  | e :: es => packBytesOnto ((w <<< 8) ||| e.setWidth 128) es

/-- A 16-byte external element as a word, E[0] the most significant byte (20_memory.md R33). -/
def packExternal (bytes : Vector (BitVec 8) 16) : Word := packBytesOnto 0#128 bytes.toList

/-- Byte E[k] of an external-form word: `w[127-8k : 120-8k]` (R33). -/
def externalByte (w : Word) (k : Nat) : BitVec 8 := w.extractLsb' (120 - 8 * k) 8

/-! ## The carryless product -/

/-- The shifted copies of `b` at the set bits of `a` below bit `i`, combined by exclusive or. -/
def clmulUpTo {m n : Nat} (a : BitVec m) (b : BitVec n) : Nat → BitVec (m + n)
  | 0 => 0#(m + n)
  | i + 1 => clmulUpTo a b i ^^^ (if a.getLsbD i then b.setWidth (m + n) <<< i else 0#(m + n))

/-- `clmul(a, b)`, the polynomial product over GF(2), by bit-by-bit shift and exclusive or (R7, R85, R87). -/
def clmul {m n : Nat} (a : BitVec m) (b : BitVec n) : BitVec (m + n) := clmulUpTo a b m

/-- The unreduced product of two 128-bit words (R85). -/
def product (a b : Word) : WideWord := clmul a b

/-- The schoolbook decomposition into half-width products (R86). -/
def schoolbook (a b : Word) : WideWord :=
  let hh : Word := clmul (hi64 a) (hi64 b)
  let ll : Word := clmul (lo64 a) (lo64 b)
  let mid : Word := clmul (hi64 a) (lo64 b) ^^^ clmul (lo64 a) (hi64 b)
  (hh ++ 0#128) ^^^ (mid.setWidth 256 <<< 64) ^^^ ll.setWidth 256

/-- The middle term of R86 as the Karatsuba product (R86, 93_implementation_defined.md I3). -/
def karatsubaMid (a b : Word) : Word :=
  let hh : Word := clmul (hi64 a) (hi64 b)
  let ll : Word := clmul (lo64 a) (lo64 b)
  let both : Word := clmul (hi64 a ^^^ lo64 a) (hi64 b ^^^ lo64 b)
  both ^^^ hh ^^^ ll

/-! ## The reduction -/

/-- Polynomial long division by P: bits 128+k-1 down to 128 of `v` are cleared in turn by adding P shifted. -/
def foldTop {n : Nat} : Nat → BitVec n → BitVec n
  | 0, v => v
  | k + 1, v => foldTop k (if v.getLsbD (128 + k) then v ^^^ (Config.fieldPoly.setWidth n <<< k) else v)

/-- `pmod(v)`, the remainder of `v` modulo P (R7). -/
def pmod {n : Nat} (v : BitVec n) : Word := (foldTop (n - 128) v).setWidth 128

/-- `reduce(h) = pmod(h ++ 0^128)`, bit 127 included: P_RED_B127 is EXACT (R94, R97; 90_conflicts.md C2). -/
def reduce (h : Word) : Word := pmod (h ++ 0#128)

/-- The pattern T[i] as R95 writes it out. -/
def pattern (i : Nat) : Word :=
  (Config.fieldPolyLow <<< i)
    ^^^ (if 121 ≤ i then Config.fieldPolyLow <<< (i - 121) else 0#128)
    ^^^ (if 126 ≤ i then Config.fieldPolyLow <<< (i - 126) else 0#128)
    ^^^ (if i = 127 then Config.fieldPolyLow else 0#128)

/-- The exclusive or of T[i] over the set bits i of `h` below bit `k`. -/
def patternSum (h : Word) : Nat → Word
  | 0 => 0#128
  | k + 1 => patternSum h k ^^^ (if h.getLsbD k then pattern k else 0#128)

/-- The per-bit form of the reduction (R95). -/
def reducePerBit (h : Word) : Word := patternSum h 128

/-- The 256-bit word t of the closed form (R96). -/
def closedT (h : Word) : WideWord :=
  let z := h.setWidth 256
  z ^^^ (z <<< 1) ^^^ (z <<< 2) ^^^ (z <<< 7)

/-- The closed form of the reduction (R96). -/
def reduceClosed (h : Word) : Word :=
  let thi := high128 (closedT h)
  low128 (closedT h) ^^^ thi ^^^ (thi <<< 1) ^^^ (thi <<< 2) ^^^ (thi <<< 7)

/-! ## The field product and the results of the commands -/

/-- `gmul(a, b)`: the product's low half and the reduced contribution of its high half (R88, R89). -/
def fieldMul (a b : Word) : Word := low128 (product a b) ^^^ reduce (high128 (product a b))

/-- `result(op, a, b)`, the values of RES and RESH (R74). -/
def result : Op → Word → Word → Word × Word
  | .enc, a, _ => (encodeElement a, 0#128)
  | .dec, a, _ => (decodeElement a, 0#128)
  | .gmul, a, b => (fieldMul a b, 0#128)
  | .clmul, a, b => (low128 (product a b), high128 (product a b))
  | .red, a, _ => (reduce a, 0#128)

end Sys2Proof.Machine
end

