-- ==== Sys2Proof/Machine/State.lean ====
section
/-! DEFINITION. The state of GFMUL128 as plain data (10_state.md R10), with the reasons a step could stop and the state
after reset. -/

namespace Sys2Proof.Machine

/-- A pending command: its operation and its operands as sampled at issue (10_state.md R24). -/
structure Pending where
  op : Op
  a : Word
  b : Word
deriving DecidableEq, Repr

/-- One slot of the schedule: the step that an agent or the reset input takes (40_command_interface.md R62). -/
inductive Slot where
  /-- The host makes the transaction `w`. -/
  | host (w : TxnWord)
  /-- The core completes the pending command, if there is one. -/
  | core
  /-- The reset input is asserted. -/
  | reset
deriving DecidableEq, Repr

/-- The state. The first eight fields are exactly the tuple of R10; the last two are the model's own. -/
structure State where
  /-- Operand register A, register number 0 (R12). -/
  opa : Word
  /-- Operand register B, register number 1 (R13). -/
  opb : Word
  /-- Result register, register number 2 (R14). -/
  res : Word
  /-- High result register, register number 3 (R15). -/
  resh : Word
  /-- STATUS[0] (R20). -/
  busy : Bool
  /-- STATUS[1] (R21). -/
  ill : Bool
  /-- STATUS[2] (R22). -/
  ovr : Bool
  /-- The pending-operation latch (R24). -/
  pend : Option Pending
  /-- The slots still to come, the next one first: what the host sends and which agent moves (log entry 1). -/
  schedule : List Slot
  /-- The response words the host has read, oldest first (R49, R64, R76; log entry 4). -/
  reads : List Word
deriving DecidableEq, Repr

/-- Why a step faults: it never does. GFMUL128 raises no exception and nothing in it is stuck (60_exceptions.md R101,
93_implementation_defined.md section 1), so the type has no constructor. -/
inductive Fault where
deriving DecidableEq, Repr

/-- Why a step is refused. -/
inductive Refusal where
  /-- Raised by exec's arm of an instruction that has no meaning yet; safe. No arm raises it: every instruction of
  this model has its meaning. -/
  | notModelled (mnemonic : String)
deriving DecidableEq, Repr

/-- The state after reset (10_state.md R27): every register and flag 0, nothing pending. The host has sent and read
nothing (log entries 1 and 4). -/
def State.reset : State where
  opa := 0#128
  opb := 0#128
  res := 0#128
  resh := 0#128
  busy := false
  ill := false
  ovr := false
  pend := none
  schedule := []
  reads := []

end Sys2Proof.Machine
end

