-- ==== Sys2Proof/Machine/Flags.lean ====
section
/-! DEFINITION. The status flags: how STATUS reads, and what sets and clears ILL and OVR. The flags are this hardware's
only error reports (60_exceptions.md R101, R102): there is no exception to take and none to return from (R106, R107). -/

namespace Sys2Proof.Machine

/-- STATUS as the host reads it: `zext_128(OVR ++ ILL ++ BUSY)` (10_state.md R19). -/
def State.status (s : State) : Word :=
  (BitVec.ofBool s.ovr ++ BitVec.ofBool s.ill ++ BitVec.ofBool s.busy).setWidth 128

/-- A write to STATUS: a 1 in bit 1 clears ILL, a 1 in bit 2 clears OVR, every other bit is ignored (R19, R68). -/
def State.clearFlags (w : Word) (s : State) : State :=
  { s with ill := s.ill && !w.getLsbD 1, ovr := s.ovr && !w.getLsbD 2 }

/-- An illegal command sets ILL and nothing else (R21, R71). -/
def State.flagIllegal (s : State) : State := { s with ill := true }

/-- A CMD write while a command is pending sets OVR and nothing else (R22, R69). -/
def State.flagOverrun (s : State) : State := { s with ovr := true }

end Sys2Proof.Machine
end

