-- ==== Sys2Proof/Machine/Operands.lean ====
section
/-! DEFINITION. Registers by number (20_memory.md R40), and a command's operands as sampled at issue. -/

namespace Sys2Proof.Machine

/-- What a host read of a register number returns (R64). CMD and the reserved numbers read as 0 (R18, R41). -/
def State.readReg (n : RegNum) (s : State) : Word :=
  match n.toNat with
  | 0 => s.opa
  | 1 => s.opb
  | 2 => s.res
  | 3 => s.resh
  | 5 => s.status
  | _ => 0#128

/-- Both operand registers are sampled for every operation; the unary ones ignore `b` (30_encoding.md R54, R55;
40_command_interface.md R70). -/
def State.sample (op : Op) (s : State) : Pending := ⟨op, s.opa, s.opb⟩

end Sys2Proof.Machine
end

