-- ==== Sys2Proof/Machine/Ops.lean ====
section
/-! DEFINITION. The shared operations: the host port's answer, command issue, completion, reset, and which step comes
next. -/

namespace Sys2Proof.Machine

/-- The port answers a read with the word `v`; nothing of the block changes (40_command_interface.md R64). -/
def State.respond (v : Word) (s : State) : State := { s with reads := s.reads ++ [v] }

/-- Issue: the operands are sampled into the latch and BUSY is set; RES and RESH are not written (R70). -/
def State.issue (op : Op) (s : State) : State := { s with pend := some (s.sample op), busy := true }

/-- A CMD write of a legal command: while BUSY = 1 it is dropped and sets OVR; otherwise it acts (R69, R72). -/
def State.command (act : State → State) (s : State) : State := if s.busy then s.flagOverrun else act s

/-- Completion: RES, RESH, pend and BUSY are written in one step; not enabled when nothing is pending (R73). -/
def State.complete (s : State) : State :=
  match s.pend with
  | none => s
  | some p =>
    { s with res := (result p.op p.a p.b).1, resh := (result p.op p.a p.b).2, pend := none, busy := false }

/-- The reset event: the block takes the reset values; what the host still sends and has read is the host's own
(70_reset_and_hazards.md R115; log entry 4). -/
def State.applyReset (s : State) : State :=
  { State.reset with schedule := s.schedule, reads := s.reads }

/-- The slot that comes next. With the schedule used up, a pending command completes (R75, R76; log entry 12); with
nothing pending no step is enabled (R76). -/
def State.nextSlot (s : State) : Option Slot :=
  match s.schedule with
  | slot :: _ => some slot
  | [] => if s.pend.isSome then some .core else none

/-- The state with its next slot taken off the schedule. -/
def State.dropSlot (s : State) : State := { s with schedule := s.schedule.tail }

/-- The state with a host transaction placed as its next slot. -/
def State.present (w : TxnWord) (s : State) : State := { s with schedule := .host w :: s.schedule }

end Sys2Proof.Machine
end

