-- ==== Sys2Proof/Machine/Commands.lean ====
section
/-! DEFINITION. The meanings of the six commands, each the CMD write of its word (30_encoding.md R58; log entry 7). The
result of an issued command is written by its completion (40_command_interface.md R73, R74). -/

namespace Sys2Proof.Machine

/-- NOP: no state change; while BUSY = 1 a CMD write that sets OVR (R72). -/
def execNop (s : State) : Host.Outcome State Fault Refusal := .next (s.command id)

/-- ENC, issued (R70, R80). -/
def execEnc (s : State) : Host.Outcome State Fault Refusal := .next (s.command (State.issue .enc))

/-- DEC, issued (R70, R81). -/
def execDec (s : State) : Host.Outcome State Fault Refusal := .next (s.command (State.issue .dec))

/-- GMUL, issued (R70, R89). -/
def execGmul (s : State) : Host.Outcome State Fault Refusal := .next (s.command (State.issue .gmul))

/-- CLMUL, issued (R70, R90). -/
def execClmul (s : State) : Host.Outcome State Fault Refusal := .next (s.command (State.issue .clmul))

/-- RED, issued (R70, R99). -/
def execRed (s : State) : Host.Outcome State Fault Refusal := .next (s.command (State.issue .red))

end Sys2Proof.Machine
end

