-- ==== Sys2Proof/Machine/Transactions.lean ====
section
/-! DEFINITION. The meanings of the nine host transactions (40_command_interface.md R64 to R69). -/

namespace Sys2Proof.Machine

/-- REGRD: the port answers with the register's word; a read has no side effect (R64). -/
def execRegrd (addr : RegNum) (s : State) : Host.Outcome State Fault Refusal := .next (s.respond (s.readReg addr))

/-- REGWR_OPA; it does not change a pending command's operand (R65). -/
def execRegwrOpa (data : Word) (s : State) : Host.Outcome State Fault Refusal := .next { s with opa := data }

/-- REGWR_OPB; it does not change a pending command's operand (R66). -/
def execRegwrOpb (data : Word) (s : State) : Host.Outcome State Fault Refusal := .next { s with opb := data }

/-- REGWR_RES: ignored, no flag (R67). -/
def execRegwrRes (_data : Word) (s : State) : Host.Outcome State Fault Refusal := .next s

/-- REGWR_RESH: ignored, no flag (R67). -/
def execRegwrResh (_data : Word) (s : State) : Host.Outcome State Fault Refusal := .next s

/-- REGWR_RSV_6_7: ignored, no flag (R41, R67). -/
def execRegwrRsv67 (_addr : RegNum) (_data : Word) (s : State) : Host.Outcome State Fault Refusal := .next s

/-- REGWR_RSV_8_15: ignored, no flag (R41, R67). -/
def execRegwrRsv815 (_addr : RegNum) (_data : Word) (s : State) : Host.Outcome State Fault Refusal := .next s

/-- REGWR_STATUS: write one to clear (R68). -/
def execRegwrStatus (data : Word) (s : State) : Host.Outcome State Fault Refusal := .next (s.clearFlags data)

/-- REGWR_CMD: the BUSY test comes first; then the word is decoded and acted on in the same step (R69). -/
def execRegwrCmd (data : Word) (s : State) : Host.Outcome State Fault Refusal :=
  if s.busy then .next s.flagOverrun
  else
    match verdict data with
    | .illegal => .next s.flagIllegal
    | .nop => execNop s
    | .issue .enc => execEnc s
    | .issue .dec => execDec s
    | .issue .gmul => execGmul s
    | .issue .clmul => execClmul s
    | .issue .red => execRed s

end Sys2Proof.Machine
end

