-- ==== Sys2Proof/Machine/Dispatch.lean ====
section
/-! DEFINITION. One arm per instruction. -/

namespace Sys2Proof.Machine

def exec (i : Instr) (s : State) : Host.Outcome State Fault Refusal :=
  match i with
  | .regrd addr => Sys2Proof.Machine.execRegrd addr s
  | .regwrOpa data => Sys2Proof.Machine.execRegwrOpa data s
  | .regwrOpb data => Sys2Proof.Machine.execRegwrOpb data s
  | .regwrRes data => Sys2Proof.Machine.execRegwrRes data s
  | .regwrResh data => Sys2Proof.Machine.execRegwrResh data s
  | .regwrCmd data => Sys2Proof.Machine.execRegwrCmd data s
  | .regwrStatus data => Sys2Proof.Machine.execRegwrStatus data s
  | .regwrRsv67 addr data => Sys2Proof.Machine.execRegwrRsv67 addr data s
  | .regwrRsv815 addr data => Sys2Proof.Machine.execRegwrRsv815 addr data s
  | .nop => Sys2Proof.Machine.execNop s
  | .enc => Sys2Proof.Machine.execEnc s
  | .dec => Sys2Proof.Machine.execDec s
  | .gmul => Sys2Proof.Machine.execGmul s
  | .clmul => Sys2Proof.Machine.execClmul s
  | .red => Sys2Proof.Machine.execRed s

end Sys2Proof.Machine
end

