-- ==== Sys2Proof/Machine/Step.lean ====
section
/-! DEFINITION. One step: the slot that comes next is the host's, the core's or the reset input's
(40_command_interface.md R62). -/

namespace Sys2Proof.Machine

/-- One step of the machine. A host slot's transaction is decoded and run (R61, R63); a core slot completes the pending
command (R73); a reset slot resets the block (R115); with no step enabled the state does not change (R76; log entry 3). -/
def step (s : State) : Host.Outcome State Fault Refusal :=
  match s.nextSlot with
  | none => .next s
  | some (.host w) => exec (decodeTxn w) s.dropSlot
  | some .core => .next s.dropSlot.complete
  | some .reset => .next s.dropSlot.applyReset

/-- The state with a table word's transaction placed as the next slot: a TXN word as it is, a CMDW word as the DATA of
a write to CMD. It stands for the host presenting it on the port (log entry 6). -/
def State.withFetchWord (s : State) (nbits w : Nat) : State := s.present (txnOfTableWord nbits w)

end Sys2Proof.Machine
end

