-- ==== Sys2Proof/Machine/HostLines.lean ====
section
/-! DEFINITION. The host-program notation: one-line forms and pseudo-instructions (30_encoding.md R58, R59). Host-local
lines (R60) touch no state of the block and have no counterpart here: a value the host computes is an argument. -/

namespace Sys2Proof.Machine

/-- `<REG>` of R58: a register by name or by number. -/
inductive PortReg where
  | opa
  | opb
  | res
  | resh
  | cmd
  | status
  | num (n : RegNum)
deriving DecidableEq, Repr

/-- A line of R58: one transaction. -/
inductive HostLine where
  | wr (reg : PortReg) (w : Word)
  | rd (reg : PortReg)
  | nop
  | cmd (op : Op)
deriving DecidableEq, Repr

/-- The register number of a name (20_memory.md R40). -/
def PortReg.number : PortReg → RegNum
  | .opa => 0#4
  | .opb => 1#4
  | .res => 2#4
  | .resh => 3#4
  | .cmd => 4#4
  | .status => 5#4
  | .num n => n

/-- The transaction of a line (R58). -/
def HostLine.txn : HostLine → TxnWord
  | .wr reg w => writeTxn reg.number w
  | .rd reg => readTxn reg.number
  | .nop => writeTxn 4#4 0#128
  | .cmd op => writeTxn 4#4 op.word

/-- `poll`, with the number of STATUS reads it takes until BUSY = 0 is read (R59; log entry 11). -/
def pollLines (reads : Nat) : List HostLine := List.replicate reads (.rd .status)

/-- `mov dst, src`: the host writes back the word `t` that its read returned (R59). -/
def movLines (dst src : PortReg) (t : Word) : List HostLine := [.rd src, .wr dst t]

/-- `clrerr` (R59). -/
def clrerrLines : List HostLine := [.wr .status 0x6#128]

/-- `op1 <cmd>, <w>` (R59). -/
def op1Lines (op : Op) (w : Word) (reads : Nat) : List HostLine := [.wr .opa w, .cmd op] ++ pollLines reads

/-- `op2 <cmd>, <w1>, <w2>` (R59). -/
def op2Lines (op : Op) (w1 w2 : Word) (reads : Nat) : List HostLine :=
  [.wr .opa w1, .wr .opb w2, .cmd op] ++ pollLines reads

/-- The slots in which the host makes the transactions of its lines, in order (20_memory.md R43). -/
def hostSlots (lines : List HostLine) : List Slot := lines.map fun l => .host l.txn

end Sys2Proof.Machine
end

