-- ==== Sys2Proof/Safety.lean ====
section
/-! DEFINITION. What the statements speak of: the invariant of 10_state.md R29, the states a run reaches, and the steps and
slots that leave a result alone. -/

namespace Sys2Proof.Machine

/-- The invariant: BUSY = 1 if and only if a command is pending, and RESH[127] = 0 (10_state.md R20, R29). -/
abbrev State.Inv (s : State) : Prop := s.busy = s.pend.isSome ∧ s.resh.getLsbD 127 = false

/-- The invariant, with R29's clause on the history: RESH = 0 unless `done`, the operation of the most recent completion
since reset, is CLMUL (10_state.md R15, R29). -/
abbrev State.InvAfter (done : Option Op) (s : State) : Prop := s.Inv ∧ (done ≠ some .clmul → s.resh = 0#128)

/-- `k` steps of the machine, one after the other; the host interface's `Host.Core.run` of this machine
(Laws/Run.lean, `runSteps_eq_run`). -/
def runSteps : Nat → State → Host.Outcome State Fault Refusal
  | 0, s => .next s
  | k + 1, s =>
    match step s with
    | .next t => runSteps k t
    | .fault r => .fault r
    | .refused r => .refused r

/-- The operation of the most recent completion since reset, after the step that state `s` takes, where `done` is the
one before it. -/
def lastCompleted (done : Option Op) (s : State) : Option Op :=
  match s.nextSlot with
  | some .reset => none
  | some .core =>
    match s.pend with
    | some p => some p.op
    | none => done
  | _ => done

/-- The states that runs from reset reach, under any schedule, each with the operation of its most recent completion
since reset (R29, R30). -/
inductive Reach : Option Op → State → Prop where
  | start (slots : List Slot) : Reach none { State.reset with schedule := slots }
  | step {done : Option Op} {s t : State} (before : Reach done s) (moves : Machine.step s = .next t) :
      Reach (lastCompleted done s) t

/-- The step that comes next resets the block or issues a command, which ends R45's promise about the last result
(20_memory.md R45). A legal command written while BUSY = 1 is dropped, so it does neither (R22, R120). -/
def State.endsResult (s : State) : Bool :=
  match s.nextSlot with
  | some .reset => true
  | some (.host w) =>
    match decodeTxn w with
    | .regwrCmd c =>
      match verdict c with
      | .issue _ => !s.busy
      | _ => false
    | _ => false
  | _ => false

/-- A slot that neither resets the block nor writes CMD (70_reset_and_hazards.md R123). -/
def Slot.writesNoCommand : Slot → Bool
  | .reset => false
  | .core => true
  | .host w =>
    match decodeTxn w with
    | .regwrCmd _ => false
    | _ => true

end Sys2Proof.Machine
end

