-- ==== Sys2Proof/Certificates/Slice0/Obligations.lean ====
section
/-! DEFINITION. The statements for the provers. -/

open Sys2Proof Sys2Proof.Machine

/-! ## What the statements speak of -/

/-- `poly(v)`, the polynomial over GF(2) whose coefficient of x^i is bit i (00_scope.md R7). -/
noncomputable def Sys2Proof.polyOf {n : Nat} (v : BitVec n) : Polynomial (ZMod 2) :=
  ∑ i ∈ Finset.range n, if v.getLsbD i then Polynomial.X ^ i else 0

/-- P(x) = x^128 + x^7 + x^2 + x + 1 (00_scope.md R4). -/
noncomputable def Sys2Proof.fieldPolynomial : Polynomial (ZMod 2) :=
  Polynomial.X ^ 128 + Polynomial.X ^ 7 + Polynomial.X ^ 2 + Polynomial.X + 1

/-- From the idle state `s`, the command word `c` written to CMD and then completed: the issue step sets BUSY, samples
the operands and leaves RES and RESH; the completion step writes `r` to them and clears BUSY (40_command_interface.md
R70, R73). Nothing else changes. -/
def Sys2Proof.RunsCommand (op : Op) (c : Word) (s : State) (rest : List Slot) (r : Word × Word) : Prop :=
  step { s with schedule := .host (writeTxn 4#4 c) :: .core :: rest } =
      .next { s with schedule := .core :: rest, pend := some ⟨op, s.opa, s.opb⟩, busy := true } ∧
    step { s with schedule := .core :: rest, pend := some ⟨op, s.opa, s.opb⟩, busy := true } =
      .next { s with schedule := rest, res := r.1, resh := r.2, pend := none, busy := false }

/-! ## Encoding -/

/-- Decode of encode of every well-formed instruction is the instruction, every operand at every value. -/
def Obligations.DecodeOfEncode : Prop := ∀ i : Instr, i.wf = true → decode (encode i) = .ok i

/-- The other direction: every transaction word decodes to a well-formed instruction; a write's word is encoded back
bit for bit, a read's with its DATA field, which R49 says is ignored, as zeros. That REGRD has no DATA is the model's
choice, log entry 5. -/
def Obligations.EncodeOfDecodedTransaction : Prop :=
  ∀ w : TxnWord, (decodeTxn w).wf = true ∧
    (w.getLsbD 132 = true → encode (decodeTxn w) = .txn w) ∧
    (w.getLsbD 132 = false →
      decodeTxn w = .regrd (w.extractLsb' 128 4) ∧ encode (decodeTxn w) = .txn (w &&& 0x0f00000000000000000000000000000000#133))

/-- Every transaction word selects exactly one TXN row of the opcode table and decodes to that row's instruction; a
command word selects the CMDW row of its instruction, or none when it is illegal. -/
def Obligations.OpcodeTableRowsDecode : Prop :=
  (∀ w : TxnWord, (txnRows.filter (fun r => r.selects w)).map (fun r => r.mnemonic) = [(decodeTxn w).mnemonic]) ∧
  (∀ c : Word, (cmdwRows.filter (fun r => r.selects c)).map (fun r => r.mnemonic) =
    match decodeCmdw c with
    | .ok i => [i.mnemonic]
    | .error _ => [])

/-- A command word is legal if and only if RSV = 0 and OP is 0 to 5, and each legal one is the word of its mnemonic
(R51). -/
def Obligations.CommandWordLegality : Prop :=
  ∀ c : Word,
    ((∃ i, decodeCmdw c = .ok i) ↔ c.extractLsb' 4 124 = 0#124 ∧ (c.extractLsb' 0 4).toNat ≤ 5) ∧
    (decodeCmdw c = .ok .nop ↔ c = 0#128) ∧
    (decodeCmdw c = .ok .enc ↔ c = 1#128) ∧
    (decodeCmdw c = .ok .dec ↔ c = 2#128) ∧
    (decodeCmdw c = .ok .gmul ↔ c = 3#128) ∧
    (decodeCmdw c = .ok .clmul ↔ c = 4#128) ∧
    (decodeCmdw c = .ok .red ↔ c = 5#128)

/-- Words written out in 95_test_vectors.md decode to the lines they stand for. -/
def Obligations.WrittenOutWordsDecode : Prop :=
  decodeTableWord 136 0x0500000000000000000000000000000000 = some (.regrd 5#4) ∧
  decodeTableWord 136 0x1066e94bd4ef8a2c3b884cfa59ca342b2e = some (.regwrOpa 0x66e94bd4ef8a2c3b884cfa59ca342b2e#128) ∧
  decodeTableWord 136 0x1140000000000000000000000000000000 = some (.regwrOpb 0x40000000000000000000000000000000#128) ∧
  decodeTableWord 136 0x1400000000000000000000000000000013 = some (.regwrCmd 0x13#128) ∧
  decodeTableWord 136 0x1500000000000000000000000000000004 = some (.regwrStatus 0x4#128) ∧
  decodeTableWord 128 0x00000000000000000000000000000003 = some .gmul ∧
  decodeTableWord 128 0x00000000000000000000000000000006 = none

/-- The lines of the host notation are the transactions R58 gives them. -/
def Obligations.HostLinesEncode : Prop :=
  (∀ (w : Word) (r : PortReg),
    txnWe (HostLine.wr r w).txn = true ∧ txnAddr (HostLine.wr r w).txn = r.number ∧ txnData (HostLine.wr r w).txn = w) ∧
  (∀ r : PortReg, txnWe (HostLine.rd r).txn = false ∧ txnAddr (HostLine.rd r).txn = r.number) ∧
  [PortReg.opa, .opb, .res, .resh, .cmd, .status].map PortReg.number = [0#4, 1#4, 2#4, 3#4, 4#4, 5#4] ∧
  (∀ n : RegNum, (PortReg.num n).number = n) ∧
  HostLine.nop.txn = (HostLine.wr .cmd 0#128).txn ∧
  (HostLine.cmd .enc).txn = (HostLine.wr .cmd 1#128).txn ∧
  (HostLine.cmd .dec).txn = (HostLine.wr .cmd 2#128).txn ∧
  (HostLine.cmd .gmul).txn = (HostLine.wr .cmd 3#128).txn ∧
  (HostLine.cmd .clmul).txn = (HostLine.wr .cmd 4#128).txn ∧
  (HostLine.cmd .red).txn = (HostLine.wr .cmd 5#128).txn

/-! ## Steps -/

/-- When the next slot is a host transaction, the step is exec of the instruction it decodes to, at the state with the
slot taken off. -/
def Obligations.StepRunsDecodedTransaction : Prop :=
  ∀ (s : State) (w : TxnWord) (rest : List Slot), s.schedule = .host w :: rest →
    step s = exec (decodeTxn w) { s with schedule := rest }

/-- When the next slot writes to CMD a word that decodes to a command, the step is exec of that command. That a command
instruction is the CMD write of its word is the model's deduction from R58, R69, R70 and R72, log entry 7. -/
def Obligations.StepRunsDecodedCommand : Prop :=
  ∀ (s : State) (c : Word) (i : Instr) (rest : List Slot), s.schedule = .host (writeTxn 4#4 c) :: rest →
    decodeCmdw c = .ok i → step s = exec i { s with schedule := rest }

/-- A table word that decodes, placed as the next slot, is the instruction the next step runs, in any state. How a
table word is placed, and that its length tells its format, are the model's choices, log entries 6 and 15. -/
def Obligations.PlacedTableWordRunsNext : Prop :=
  ∀ (s : State) (nbits w : Nat) (i : Instr), decodeTableWord nbits w = some i →
    step (s.withFetchWord nbits w) = exec i s

/-- The decoding procedure (R61): what a transaction does, by WE, ADDR, BUSY and DATA. -/
def Obligations.DecodingProcedure : Prop :=
  ∀ (s : State) (w : TxnWord),
    let addr := (w.extractLsb' 128 4).toNat
    let data : Word := w.extractLsb' 0 128
    let op := (data.extractLsb' 0 4).toNat
    (w.getLsbD 132 = false → decodeTxn w = .regrd (w.extractLsb' 128 4)) ∧
    (w.getLsbD 132 = true → addr = 0 → decodeTxn w = .regwrOpa data) ∧
    (w.getLsbD 132 = true → addr = 1 → decodeTxn w = .regwrOpb data) ∧
    (w.getLsbD 132 = true → addr = 5 → decodeTxn w = .regwrStatus data) ∧
    (w.getLsbD 132 = true → addr = 4 → s.busy = true → exec (decodeTxn w) s = .next { s with ovr := true }) ∧
    (w.getLsbD 132 = true → addr = 4 → s.busy = false → data.extractLsb' 4 124 ≠ 0#124 →
      exec (decodeTxn w) s = .next { s with ill := true }) ∧
    (w.getLsbD 132 = true → addr = 4 → s.busy = false → data.extractLsb' 4 124 = 0#124 →
      (op = 0 → exec (decodeTxn w) s = .next s) ∧
      (op = 1 → exec (decodeTxn w) s = .next { s with pend := some ⟨.enc, s.opa, s.opb⟩, busy := true }) ∧
      (op = 2 → exec (decodeTxn w) s = .next { s with pend := some ⟨.dec, s.opa, s.opb⟩, busy := true }) ∧
      (op = 3 → exec (decodeTxn w) s = .next { s with pend := some ⟨.gmul, s.opa, s.opb⟩, busy := true }) ∧
      (op = 4 → exec (decodeTxn w) s = .next { s with pend := some ⟨.clmul, s.opa, s.opb⟩, busy := true }) ∧
      (op = 5 → exec (decodeTxn w) s = .next { s with pend := some ⟨.red, s.opa, s.opb⟩, busy := true }) ∧
      (6 ≤ op → exec (decodeTxn w) s = .next { s with ill := true })) ∧
    (w.getLsbD 132 = true → addr = 2 ∨ addr = 3 ∨ 6 ≤ addr → exec (decodeTxn w) s = .next s)

/-- Every transaction and every other step answers a next state, in every state: no fault, no refusal. -/
def Obligations.NothingFaultsOrRefuses : Prop :=
  (∀ (i : Instr) (s : State), ∃ t, exec i s = .next t) ∧ (∀ s : State, ∃ t, step s = .next t)

/-- Completion (R73): enabled if and only if a command is pending; five writes in one step, nothing else. That a core
slot with nothing pending is a step which drops the slot and no more is the model's choice, log entry 2. -/
def Obligations.CompletionWritesResult : Prop :=
  (∀ (s : State) (op : Op) (a b : Word) (rest : List Slot), s.schedule = .core :: rest → s.pend = some ⟨op, a, b⟩ →
    step s = .next { s with schedule := rest, res := (result op a b).1, resh := (result op a b).2,
                            pend := none, busy := false }) ∧
  (∀ (s : State) (rest : List Slot), s.schedule = .core :: rest → s.pend = none →
    step s = .next { s with schedule := rest }) ∧
  result .gmul 0x3#128 0x3#128 = (0x5#128, 0x0#128)

/-- The result function (R74), and that it is all a completion depends on: two states with the same pending command
complete with the same RES and RESH. -/
def Obligations.ResultDependsOnLatchOnly : Prop :=
  (∀ a b : Word, result .enc a b = (encodeElement a, 0#128)) ∧
  (∀ a b : Word, result .dec a b = (decodeElement a, 0#128)) ∧
  (∀ a b : Word, result .gmul a b = (fieldMul a b, 0#128)) ∧
  (∀ a b : Word, result .clmul a b = (low128 (clmul a b), high128 (clmul a b))) ∧
  (∀ a b : Word, result .red a b = (reduce a, 0#128)) ∧
  (∀ s t : State, ∀ p : Pending, s.pend = some p → t.pend = some p →
    s.complete.res = t.complete.res ∧ s.complete.resh = t.complete.resh)

/-- With the schedule used up: a pending command completes, and with nothing pending the state does not change. The
model's choice, log entries 3 and 12, from the fairness of R75 and the end of R76. -/
def Obligations.HostStopsThenBlockSettles : Prop :=
  ∀ s : State, s.schedule = [] →
    (∀ p, s.pend = some p → step s = .next { s with res := (result p.op p.a p.b).1, resh := (result p.op p.a p.b).2,
                                                    pend := none, busy := false }) ∧
    (s.pend = none → step s = .next s)

/-- Reset (R115, R27): in one step and whatever the state, every register and flag becomes 0 and the latch none, a
pending command discarded with it; the state right after reset holds the same values. -/
def Obligations.ResetClearsEverything : Prop :=
  (∀ (s : State) (rest : List Slot), s.schedule = .reset :: rest → ∃ t, step s = .next t ∧
    t.opa = 0#128 ∧ t.opb = 0#128 ∧ t.res = 0#128 ∧ t.resh = 0#128 ∧
    t.busy = false ∧ t.ill = false ∧ t.ovr = false ∧ t.pend = none) ∧
  State.reset.opa = 0#128 ∧ State.reset.opb = 0#128 ∧ State.reset.res = 0#128 ∧ State.reset.resh = 0#128 ∧
  State.reset.busy = false ∧ State.reset.ill = false ∧ State.reset.ovr = false ∧ State.reset.pend = none

/-- A command issued before a reset and not completed before it leaves no trace (R117): a core slot after the reset
finds nothing to complete, and RES = 0 and BUSY = 0. The model's choices: that slot passes and changes the schedule only,
log entry 2; the host's slots and what it has read stay, log entry 4. -/
def Obligations.ResetDiscardsPendingCommand : Prop :=
  ∀ (s : State) (p : Pending) (rest : List Slot), s.pend = some p → s.schedule = .reset :: .core :: rest →
    ∃ t, step s = .next t ∧ step t = .next { t with schedule := rest } ∧
      t.pend = none ∧ t.res = 0#128 ∧ t.resh = 0#128 ∧ t.busy = false ∧ t.schedule = .core :: rest ∧ t.reads = s.reads

/-! ## Host transactions -/

/-- HostRead (R64): its encoding, and the word each register number returns; nothing but the host's record changes. -/
def Obligations.RegisterReads : Prop :=
  (∀ n : RegNum, decodeTxn (readTxn n) = .regrd n) ∧
  ∀ s : State,
    exec (.regrd 0#4) s = .next { s with reads := s.reads ++ [s.opa] } ∧
    exec (.regrd 1#4) s = .next { s with reads := s.reads ++ [s.opb] } ∧
    exec (.regrd 2#4) s = .next { s with reads := s.reads ++ [s.res] } ∧
    exec (.regrd 3#4) s = .next { s with reads := s.reads ++ [s.resh] } ∧
    exec (.regrd 4#4) s = .next { s with reads := s.reads ++ [0#128] } ∧
    exec (.regrd 5#4) s = .next { s with reads := s.reads ++
      [(BitVec.ofBool s.ovr ++ BitVec.ofBool s.ill ++ BitVec.ofBool s.busy).setWidth 128] } ∧
    ∀ n : RegNum, 6 ≤ n.toNat → exec (.regrd n) s = .next { s with reads := s.reads ++ [0#128] }

/-- Writes to OPA and OPB (R65, R66): their encodings; the register takes the word, in every state, and nothing else changes, the
pending command's operands among it; a read then returns the word (R43). -/
def Obligations.OperandWrites : Prop :=
  ∀ (s : State) (w : Word),
    decodeTxn (writeTxn 0#4 w) = .regwrOpa w ∧ decodeTxn (writeTxn 1#4 w) = .regwrOpb w ∧
    exec (.regwrOpa w) s = .next { s with opa := w } ∧
    exec (.regwrOpb w) s = .next { s with opb := w } ∧
    exec (.regrd 0#4) { s with opa := w } = .next { s with opa := w, reads := s.reads ++ [w] } ∧
    exec (.regrd 1#4) { s with opb := w } = .next { s with opb := w, reads := s.reads ++ [w] }

/-- Ignored writes (R67, R41): the four rows change nothing and set no flag, in every state; so does a transaction that
writes register number 2, 3 or 6 to 15, and a read of a reserved number returns 0. -/
def Obligations.IgnoredWrites : Prop :=
  ∀ (s : State) (n : RegNum) (w : Word),
    exec (.regwrRes w) s = .next s ∧ exec (.regwrResh w) s = .next s ∧
    exec (.regwrRsv67 n w) s = .next s ∧ exec (.regwrRsv815 n w) s = .next s ∧
    (n = 2#4 ∨ n = 3#4 ∨ 6 ≤ n.toNat → exec (decodeTxn (writeTxn n w)) s = .next s) ∧
    (6 ≤ n.toNat → exec (decodeTxn (readTxn n)) s = .next { s with reads := s.reads ++ [0#128] })

/-- STATUS: it reads as BUSY, ILL, OVR in bits 0, 1, 2 and zeros above (R19); a write clears ILL by a 1 in bit 1 and OVR
by a 1 in bit 2, a 0 leaves them, and every other bit is ignored (R68). -/
def Obligations.StatusRegister : Prop :=
  ∀ s : State,
    (s.readReg 5#4 = s.status ∧ s.status.getLsbD 0 = s.busy ∧ s.status.getLsbD 1 = s.ill ∧
      s.status.getLsbD 2 = s.ovr ∧ ∀ i, 3 ≤ i → s.status.getLsbD i = false) ∧
    ∀ w : Word, decodeTxn (writeTxn 5#4 w) = .regwrStatus w ∧ exec (.regwrStatus w) s =
      .next { s with ill := if w.getLsbD 1 then false else s.ill, ovr := if w.getLsbD 2 then false else s.ovr }

/-- Write CMD (R69 to R72, R52, R53): overrun while busy; otherwise illegal, NOP or issue. -/
def Obligations.CommandWrite : Prop :=
  ∀ (s : State) (c : Word),
    decodeTxn (writeTxn 4#4 c) = .regwrCmd c ∧
    (s.busy = true → exec (.regwrCmd c) s = .next { s with ovr := true }) ∧
    (s.busy = false → c.extractLsb' 4 124 ≠ 0#124 ∨ 6 ≤ (c.extractLsb' 0 4).toNat →
      exec (.regwrCmd c) s = .next { s with ill := true }) ∧
    (s.busy = false → c = 0#128 → exec (.regwrCmd c) s = .next s) ∧
    (∀ op : Op, s.busy = false → c = op.word →
      exec (.regwrCmd c) s = .next { s with pend := some ⟨op, s.opa, s.opb⟩, busy := true })

/-- The six commands while BUSY = 0: NOP changes nothing (R72); ENC, DEC, GMUL, CLMUL and RED issue (R70): the operands
are sampled into the latch and BUSY is set; RES, RESH, the error flags and the operand registers stay. -/
def Obligations.CommandsWhileIdle : Prop :=
  ∀ s : State, s.busy = false →
    exec .nop s = .next s ∧
    exec .enc s = .next { s with pend := some ⟨.enc, s.opa, s.opb⟩, busy := true } ∧
    exec .dec s = .next { s with pend := some ⟨.dec, s.opa, s.opb⟩, busy := true } ∧
    exec .gmul s = .next { s with pend := some ⟨.gmul, s.opa, s.opb⟩, busy := true } ∧
    exec .clmul s = .next { s with pend := some ⟨.clmul, s.opa, s.opb⟩, busy := true } ∧
    exec .red s = .next { s with pend := some ⟨.red, s.opa, s.opb⟩, busy := true }

/-- A command or any other CMD write while BUSY = 1 is dropped and sets OVR, nothing else (R22, R120). -/
def Obligations.CommandsOverrunWhileBusy : Prop :=
  ∀ s : State, s.busy = true →
    (∀ i ∈ [Instr.nop, .enc, .dec, .gmul, .clmul, .red], exec i s = .next { s with ovr := true }) ∧
    (∀ c : Word, exec (.regwrCmd c) s = .next { s with ovr := true })

/-- The life of ILL and OVR (R21, R22): each is set by its event alone, stays set, and is cleared by a STATUS write
with its bit set or by a reset. Steps, over all states. -/
def Obligations.ErrorFlagsAreSticky : Prop :=
  ∀ s t : State, step s = .next t →
    (s.ill = false → t.ill = true → s.busy = false ∧ ∃ w c, s.nextSlot = some (.host w) ∧
      decodeTxn w = .regwrCmd c ∧ decodeCmdw c = .error .illegalCommand) ∧
    (s.ovr = false → t.ovr = true → s.busy = true ∧ ∃ w c, s.nextSlot = some (.host w) ∧ decodeTxn w = .regwrCmd c) ∧
    (s.ill = true → t.ill = false → s.nextSlot = some .reset ∨ ∃ w d, s.nextSlot = some (.host w) ∧
      decodeTxn w = .regwrStatus d ∧ d.getLsbD 1 = true) ∧
    (s.ovr = true → t.ovr = false → s.nextSlot = some .reset ∨ ∃ w d, s.nextSlot = some (.host w) ∧
      decodeTxn w = .regwrStatus d ∧ d.getLsbD 2 = true)

/-- Side effects and idempotency (R39): a read changes nothing a second read could see; writing OPA, OPB or STATUS
twice is writing it once; writes to RES, RESH and reserved numbers have no effect; a CMD write is not idempotent. -/
def Obligations.RepeatedTransactions : Prop :=
  (∀ (s : State) (n : RegNum), exec (.regrd n) s = .next { s with reads := s.reads ++ [s.readReg n] } ∧
    ∀ m : RegNum, ({ s with reads := s.reads ++ [s.readReg n] } : State).readReg m = s.readReg m) ∧
  (∀ (s t : State) (w : Word), ∀ i ∈ [Instr.regwrOpa w, .regwrOpb w, .regwrStatus w],
    exec i s = .next t → exec i t = .next t) ∧
  (∀ (s : State) (n : RegNum) (w : Word), n = 2#4 ∨ n = 3#4 ∨ 6 ≤ n.toNat →
    exec (decodeTxn (writeTxn n w)) s = .next s) ∧
  (∃ s t u : State, exec (.regwrCmd 3#128) s = .next t ∧ exec (.regwrCmd 3#128) t = .next u ∧ u ≠ t)

/-! ## Commands from issue to completion -/

/-- ENC (R80) and DEC (R81): RES takes the full bit reversal of OPA as sampled, RESH 0. -/
def Obligations.CodecCommands : Prop :=
  ∀ (s : State) (rest : List Slot), s.busy = false →
    ∃ r : Word, RunsCommand .enc 1#128 s rest (r, 0#128) ∧ RunsCommand .dec 2#128 s rest (r, 0#128) ∧
      ∀ i, i < 128 → r.getLsbD i = s.opa.getLsbD (127 - i)

/-- GMUL (R89): RES takes low128 xor reduce(high128) of the carryless product, which is its remainder modulo P; RESH 0. -/
def Obligations.GmulCommand : Prop :=
  ∀ (s : State) (rest : List Slot), s.busy = false →
    ∃ r : Word, RunsCommand .gmul 3#128 s rest (r, 0#128) ∧
      r = (clmul s.opa s.opb).extractLsb' 0 128 ^^^ reduce ((clmul s.opa s.opb).extractLsb' 128 128) ∧
      r = pmod (clmul s.opa s.opb)

/-- CLMUL (R90): RES takes bits 127:0 of the carryless product, RESH bits 255:128; RESH[127] = 0, and RES xor
reduce(RESH) is the word GMUL gives. -/
def Obligations.ClmulCommand : Prop :=
  ∀ (s : State) (rest : List Slot), s.busy = false →
    RunsCommand .clmul 4#128 s rest
      ((clmul s.opa s.opb).extractLsb' 0 128, (clmul s.opa s.opb).extractLsb' 128 128) ∧
    ((clmul s.opa s.opb).extractLsb' 128 128).getLsbD 127 = false ∧
    (clmul s.opa s.opb).extractLsb' 0 128 ^^^ reduce ((clmul s.opa s.opb).extractLsb' 128 128) = fieldMul s.opa s.opb

/-- RED (R99): RES takes the reduction of OPA as sampled, an overflow word; RESH 0. -/
def Obligations.RedCommand : Prop :=
  ∀ (s : State) (rest : List Slot), s.busy = false →
    RunsCommand .red 5#128 s rest (pmod (s.opa ++ 0#128), 0#128)

/-! ## The arithmetic -/

/-- Bit k of `clmul(a, b)` is the exclusive or over i + j = k of a[i] AND b[j] (R7), here the parity of the number of
such i with both bits set. -/
def Obligations.ClmulBits : Prop :=
  ∀ (m n k : Nat) (a : BitVec m) (b : BitVec n),
    (clmul a b).getLsbD k =
      decide (((List.range m).countP fun i => a.getLsbD i && (decide (i ≤ k) && b.getLsbD (k - i))) % 2 = 1)

/-- `clmul` is the product of polynomials over GF(2) (R7). -/
def Obligations.ClmulIsPolynomialProduct : Prop :=
  ∀ (m n : Nat) (a : BitVec m) (b : BitVec n), polyOf (clmul a b) = polyOf a * polyOf b

/-- `pmod` is the remainder modulo P, at every width, and the only 128-bit word that is (R7). -/
def Obligations.PmodIsRemainder : Prop :=
  ∀ (n : Nat) (v : BitVec n), polyOf (pmod v) = polyOf v %ₘ fieldPolynomial ∧
    ∀ r : Word, fieldPolynomial ∣ polyOf v - polyOf r → r = pmod v

/-- The field product (R84): `pmod(clmul(a, b))`, the word whose polynomial is poly(a)·poly(b) mod P, which is low128 xor
reduce(high128) of the product (R88). -/
def Obligations.FieldMulIsFieldProduct : Prop :=
  (∀ a b : Word, fieldMul a b = pmod (clmul a b) ∧
    polyOf (fieldMul a b) = (polyOf a * polyOf b) %ₘ fieldPolynomial ∧
    fieldMul a b = low128 (product a b) ^^^ reduce (high128 (product a b))) ∧
  ∀ v : WideWord, pmod v = low128 v ^^^ reduce (high128 v)

/-- The halves of the unreduced product (R85) and the overflow bound (R92): bit 255 is always 0. -/
def Obligations.ProductTopBitIsZero : Prop :=
  ∀ a b : Word, product a b = clmul a b ∧ product a b = high128 (product a b) ++ low128 (product a b) ∧
    (product a b).getLsbD 255 = false ∧ (high128 (product a b)).getLsbD 127 = false

/-- The schoolbook decomposition and its Karatsuba form equal the product; the half products have bit 127 = 0 (R86). -/
def Obligations.SchoolbookIsProduct : Prop :=
  ∀ a b : Word, schoolbook a b = product a b ∧
    karatsubaMid a b = (clmul (hi64 a) (lo64 b) ^^^ clmul (lo64 a) (hi64 b) : BitVec 128) ∧
    (clmul (hi64 a) (hi64 b) : BitVec 128).getLsbD 127 = false ∧
    (clmul (lo64 a) (lo64 b) : BitVec 128).getLsbD 127 = false

/-- The contract of the reduction (R94): the word whose polynomial is poly(h)·x^128 mod P, for every h. -/
def Obligations.ReductionContract : Prop :=
  ∀ h : Word, reduce h = pmod (h ++ 0#128) ∧
    polyOf (reduce h) = (polyOf h * Polynomial.X ^ 128) %ₘ fieldPolynomial

/-- The reduction is the exclusive or of the patterns T[i] of the set bits (R95), and the closed form, whose high half
has no bit above 6 (R96). -/
def Obligations.ReductionForms : Prop :=
  (∀ h : Word, reduce h = reducePerBit h ∧ reduce h = reduceClosed h ∧
    high128 (closedT h) = (h >>> 127) ^^^ (h >>> 126) ^^^ (h >>> 121) ∧
    ∀ i, 7 ≤ i → (high128 (closedT h)).getLsbD i = false) ∧
  (∀ i, i < 128 → pattern i = pmod (1#256 <<< (128 + i))) ∧
  (∀ i, i ≤ 120 → pattern i = 0x87#128 <<< i) ∧
  pattern 121 = 0x0e000000000000000000000000000087#128 ∧ pattern 122 = 0x1c00000000000000000000000000010e#128 ∧
  pattern 123 = 0x3800000000000000000000000000021c#128 ∧ pattern 124 = 0x70000000000000000000000000000438#128 ∧
  pattern 125 = 0xe0000000000000000000000000000870#128 ∧ pattern 126 = 0xc0000000000000000000000000001067#128 ∧
  pattern 127 = 0x80000000000000000000000000002049#128

/-- Bit 127 of the input (R97): it contributes T[127]; a circuit that skipped it agrees exactly where it is 0. -/
def Obligations.ReductionOfBit127 : Prop :=
  (∀ h : Word, h.getLsbD 127 = true →
    reduce h = patternSum h 127 ^^^ 0x80000000000000000000000000002049#128 ∧ reduce h ≠ patternSum h 127) ∧
  (∀ h : Word, h.getLsbD 127 = false → reduce h = patternSum h 127) ∧
  reduce 0x80000000000000000000000000000000#128 = 0x80000000000000000000000000002049#128 ∧
  reduce (BitVec.allOnes 128) = 0x00000000000000000000000000003f8e#128 ∧
  patternSum 0x80000000000000000000000000000000#128 127 = 0#128 ∧
  patternSum (BitVec.allOnes 128) 127 = 0x80000000000000000000000000001fc7#128 ∧
  ∀ a b : Word, reduce (high128 (product a b)) = patternSum (high128 (product a b)) 127

/-- The laws of the reduction (R98): 0 to 0, linear over GF(2), a bijection, not idempotent. -/
def Obligations.ReductionLaws : Prop :=
  reduce 0#128 = 0#128 ∧ (∀ a b : Word, reduce (a ^^^ b) = reduce a ^^^ reduce b) ∧ Function.Bijective reduce ∧
    reduce 0x1#128 = 0x87#128 ∧ reduce 0x87#128 = 0x4015#128

/-- Squaring (R93): the square of a word has its bits at the even places, and 0 at the odd ones. -/
def Obligations.SquaringSpreadsBits : Prop :=
  (∀ a : Word, (∀ i, i < 128 → (clmul a a).getLsbD (2 * i) = a.getLsbD i ∧ (clmul a a).getLsbD (2 * i + 1) = false) ∧
    fieldMul a a = pmod (clmul a a)) ∧
  fieldMul 0x2#128 0x2#128 = 0x4#128 ∧
  fieldMul 0x10000000000000000#128 0x10000000000000000#128 = 0x87#128

/-- The field product is commutative and distributes over exclusive or, with zero 0 and one 0x1; so is the unreduced
product (R91's laws but associativity and inverses). -/
def Obligations.ProductsCommuteAndDistribute : Prop :=
  (∀ a b : Word, fieldMul a b = fieldMul b a ∧ clmul a b = clmul b a) ∧
  (∀ a b c : Word, fieldMul (a ^^^ c) b = fieldMul a b ^^^ fieldMul c b ∧ clmul (a ^^^ c) b = clmul a b ^^^ clmul c b) ∧
  (∀ a : Word, fieldMul a 0#128 = 0#128 ∧ fieldMul a 0x1#128 = a ∧
    clmul a 0#128 = 0#256 ∧ clmul a 0x1#128 = a.setWidth 256)

/-- The field product is associative (R91). -/
def Obligations.FieldMulAssociative : Prop :=
  ∀ a b c : Word, fieldMul (fieldMul a b) c = fieldMul a (fieldMul b c)

/-- Every nonzero word has exactly one inverse in the field (R91; P is irreducible). -/
def Obligations.FieldMulInverses : Prop :=
  (∀ a : Word, a ≠ 0#128 → ∃! b : Word, fieldMul a b = 0x1#128) ∧
    fieldMul 0x2#128 0x80000000000000000000000000000043#128 = 0x1#128

/-- The conversion is the full 128-bit reversal (R78), with R79's three descriptions: bytes reversed and the bits in
each byte reversed; per-byte reversal read as little-endian; halves swapped and each reversed. -/
def Obligations.CodecIsFullBitReversal : Prop :=
  ∀ w : Word,
    (∀ i, i < 128 → (encodeElement w).getLsbD i = w.getLsbD (127 - i)) ∧ decodeElement w = encodeElement w ∧
    (∀ k, k < 16 → externalByte (encodeElement w) k = bitrev (externalByte w (15 - k))) ∧
    (∀ k, k < 16 → (encodeElement w).extractLsb' (8 * k) 8 = bitrev (externalByte w k)) ∧
    encodeElement w = bitrev (lo64 w) ++ bitrev (hi64 w) ∧
    hi64 (encodeElement w) = bitrev (lo64 w) ∧ lo64 (encodeElement w) = bitrev (hi64 w)

/-- The codec laws (R82): mutually inverse, bijections, linear over exclusive or; and the named elements (R83). -/
def Obligations.CodecLaws : Prop :=
  (∀ w : Word, decodeElement (encodeElement w) = w ∧ encodeElement (decodeElement w) = w) ∧
  Function.Bijective encodeElement ∧ Function.Bijective decodeElement ∧
  (∀ a b : Word, encodeElement (a ^^^ b) = encodeElement a ^^^ encodeElement b) ∧
  encodeElement 0x80000000000000000000000000000000#128 = 0x1#128 ∧
  encodeElement 0x00000000000000000000000000000001#128 = 0x80000000000000000000000000000000#128 ∧
  encodeElement 0x00000000000000000000000000000002#128 = 0x40000000000000000000000000000000#128 ∧
  decodeElement 0x87#128 = 0xe1000000000000000000000000000000#128

/-- The packing of an external element and its bit convention (R32, R33, R34): byte E[k] lies at bits 127-8k to 120-8k,
and bit j of E[k] is the coefficient of x^(8k+7-j) of the internal form. -/
def Obligations.ExternalBitConvention : Prop :=
  (∀ (bytes : Vector (BitVec 8) 16) (k j : Nat) (hk : k < 16), j < 8 →
    externalByte (packExternal bytes) k = bytes[k] ∧
    (packExternal bytes).getLsbD (8 * (15 - k) + j) = bytes[k].getLsbD j ∧
    (encodeElement (packExternal bytes)).getLsbD (8 * k + 7 - j) = bytes[k].getLsbD j) ∧
  ∀ (w : Word) (b : Nat), b < 128 → w.getLsbD b = (encodeElement w).getLsbD (127 - b)

/-! ## Invariants and whole-machine rules -/

/-- Every step keeps the invariant: BUSY = 1 if and only if a command is pending, and RESH[127] = 0. -/
def Obligations.StepKeepsInvariant : Prop := ∀ s t : State, s.Inv → step s = .next t → t.Inv

/-- The invariant holds after reset, with nothing completed yet, whatever the schedule: BUSY = 1 if and only if a command
is pending, RESH[127] = 0 and RESH = 0. -/
def Obligations.ResetMeetsInvariant : Prop :=
  ∀ slots : List Slot, ({ State.reset with schedule := slots } : State).InvAfter none

/-- In every reachable state (R29): BUSY = 1 if and only if pend is not none; RESH = 0 unless the most recent
completion since reset was of CLMUL; RESH[127] = 0; STATUS[127:3] = 0. -/
def Obligations.ReachableStates : Prop :=
  ∀ (done : Option Op) (s : State), Reach done s →
    (s.busy = true ↔ s.pend ≠ none) ∧ (done ≠ some .clmul → s.resh = 0#128) ∧ s.resh.getLsbD 127 = false ∧
      ∀ i, 3 ≤ i → s.status.getLsbD i = false

/-- RES and RESH change only at a completion or a reset (R14, R15, R119). -/
def Obligations.ResultsChangeOnlyAtCompletion : Prop :=
  ∀ s t : State, step s = .next t → t.res ≠ s.res ∨ t.resh ≠ s.resh →
    (s.nextSlot = some .core ∧ s.pend ≠ none) ∨ s.nextSlot = some .reset

/-- OPA and OPB change only by a host write to them or a reset; no command and no completion writes them (R12, R13). -/
def Obligations.OperandsChangeOnlyByHostWrite : Prop :=
  ∀ s t : State, step s = .next t →
    (t.opa ≠ s.opa → s.nextSlot = some .reset ∨
      ∃ w d, s.nextSlot = some (.host w) ∧ decodeTxn w = .regwrOpa d ∧ t.opa = d) ∧
    (t.opb ≠ s.opb → s.nextSlot = some .reset ∨
      ∃ w d, s.nextSlot = some (.host w) ∧ decodeTxn w = .regwrOpb d ∧ t.opb = d)

/-- BUSY is set by issue alone and cleared by completion or reset alone (R20, R23). -/
def Obligations.BusyChangesOnlyByIssueAndCompletion : Prop :=
  ∀ s t : State, step s = .next t →
    (s.busy = false → t.busy = true → ∃ w c op, s.nextSlot = some (.host w) ∧ decodeTxn w = .regwrCmd c ∧
      c = op.word ∧ t.pend = some ⟨op, s.opa, s.opb⟩) ∧
    (s.busy = true → t.busy = false → (s.nextSlot = some .core ∧ s.pend ≠ none) ∨ s.nextSlot = some .reset)

/-- A pending command is left as it was issued, whatever the host writes, until its completion or a reset (R12, R13,
R22, R24, R121). -/
def Obligations.PendingCommandIsUndisturbed : Prop :=
  ∀ (s t : State) (p : Pending), s.Inv → s.pend = some p → step s = .next t →
    (t.pend = some p ∧ t.busy = true ∧ t.res = s.res ∧ t.resh = s.resh) ∨
    (s.nextSlot = some .core ∧ t.pend = none ∧ (t.res, t.resh) = result p.op p.a p.b) ∨
    s.nextSlot = some .reset

/-- No command reads RES or RESH (R16): two states that differ only in RES and RESH stay so under every instruction
but a read of them, and complete a pending command alike. -/
def Obligations.ResultsFeedNoCommand : Prop :=
  ∀ (s : State) (r h : Word),
    (∀ (i : Instr) (t : State), i ≠ .regrd 2#4 → i ≠ .regrd 3#4 → exec i s = .next t →
      exec i { s with res := r, resh := h } = .next { t with res := r, resh := h }) ∧
    (s.pend ≠ none → ({ s with res := r, resh := h } : State).complete = s.complete)

/-! ## Interleavings and the host's discipline -/

/-- A read of RES or RESH made while a command is pending returns the previous value or the new result, by whether
completion comes first: both schedules are runs (R119). -/
def Obligations.EarlyReadSeesOldOrNew : Prop :=
  ∀ (s : State) (p : Pending) (rest : List Slot), s.pend = some p →
    (∃ t, runSteps 2 { s with schedule := .host (readTxn 2#4) :: .host (readTxn 3#4) :: rest } = .next t ∧
      t.reads = s.reads ++ [s.res, s.resh]) ∧
    (∃ t, runSteps 3 { s with schedule := .core :: .host (readTxn 2#4) :: .host (readTxn 3#4) :: rest } = .next t ∧
      t.reads = s.reads ++ [(result p.op p.a p.b).1, (result p.op p.a p.b).2])

/-- Back-to-back commands (R120): any CMD write that follows an issue with no completion between them is dropped and OVR,
which a STATUS read returns in bit 2, tells; a command that follows it with a completion between them is issued. -/
def Obligations.BackToBackCommands : Prop :=
  ∀ (s : State) (op op' : Op) (rest : List Slot), s.busy = false →
    (∀ c : Word, ∃ (t : State) (status : Word), runSteps 3
        { s with schedule := .host (writeTxn 4#4 op.word) :: .host (writeTxn 4#4 c) :: .host (readTxn 5#4) :: rest } =
          .next t ∧
      t.ovr = true ∧ t.ill = s.ill ∧ t.pend = some ⟨op, s.opa, s.opb⟩ ∧
      t.reads = s.reads ++ [status] ∧ status.getLsbD 2 = true) ∧
    (∃ t, runSteps 3
        { s with schedule := .host (writeTxn 4#4 op.word) :: .core :: .host (writeTxn 4#4 op'.word) :: rest } = .next t ∧
      t.ovr = s.ovr ∧ t.pend = some ⟨op', s.opa, s.opb⟩)

/-- Once issued, and until the block is reset or another command is issued, the block is either still busy with the
command or RES and RESH hold its result: after any number of steps none of which resets the block or issues a command
(R45, R121). A CMD write dropped as an overrun while BUSY = 1 is among the steps allowed (R22, R120). -/
def Obligations.ResultHeldUntilNextCommand : Prop :=
  ∀ (s : State) (op : Op) (a b : Word) (k : Nat), s.pend = some ⟨op, a, b⟩ → s.busy = true →
    (∀ (j : Nat) (u : State), j < k → runSteps j s = .next u → u.endsResult = false) →
    ∃ t, runSteps k s = .next t ∧ t.schedule = s.schedule.drop k ∧
      ((t.pend = some ⟨op, a, b⟩ ∧ t.busy = true ∧ t.res = s.res ∧ t.resh = s.resh) ∨
       (t.pend = none ∧ t.busy = false ∧ (t.res, t.resh) = result op a b))

/-- The host discipline (R123): write OPA, write OPB or leave it, write the command, then anything that writes no
command, a STATUS read that returns BUSY = 0, and the reads of RES and, if wanted, RESH. For every interleaving with the
core's slots the words read are the command's result. -/
def Obligations.HostDiscipline : Prop :=
  ∀ (s : State) (op : Op) (a : Word) (b : Option Word) (high : Bool) (n₁ n₂ n₃ n₄ n₅ : Nat) (waiting rest : List Slot),
    s.Inv → s.busy = false → waiting.all Slot.writesNoCommand = true →
    let cores := fun n => List.replicate n Slot.core
    let writeB : List Slot :=
      match b with
      | some w => .host (writeTxn 1#4 w) :: cores n₃
      | none => []
    let readHigh : List Slot := if high then cores n₅ ++ [.host (readTxn 3#4)] else []
    let slots := cores n₁ ++ [.host (writeTxn 0#4 a)] ++ cores n₂ ++ writeB ++ [.host (writeTxn 4#4 op.word)] ++
      waiting ++ [.host (readTxn 5#4)] ++ cores n₄ ++ [.host (readTxn 2#4)] ++ readHigh
    ∃ (t : State) (earlier : List Word) (status lo hi : Word),
      runSteps slots.length { s with schedule := slots ++ rest } = .next t ∧
      t.reads = s.reads ++ earlier ++ [status, lo] ++ (if high then [hi] else []) ∧
      (status.getLsbD 0 = false → (lo, hi) = result op a (b.getD s.opb))

/-- Progress (R75): from every state some number of steps, at most one more than the slots still to come, leads to a
state in which nothing is pending. The bound is the model's, whose schedules are finite (log entry 12). -/
def Obligations.PendingCommandCompletes : Prop :=
  ∀ s : State, ∃ (k : Nat) (t : State), k ≤ s.schedule.length + 1 ∧ runSteps k s = .next t ∧ t.pend = none

/-! ## The history of RESH, step by step -/

/-- Every step keeps R29's facts together with their history: if BUSY = 1 if and only if a command is pending,
RESH[127] = 0, and RESH = 0 unless the most recent completion was of CLMUL, then the same holds after the step, of the
most recent completion as the step leaves it. A core slot with nothing pending is no completion: the model's choice, log
entry 2. -/
def Obligations.StepKeepsResultHistory : Prop :=
  ∀ (done : Option Op) (s t : State), s.InvAfter done → step s = .next t → t.InvAfter (lastCompleted done s)
end

