-- ==== Sys2Proof/Laws/Decode.lean ====
section
/-! SUPPORT. The fields of the words the encoder builds, and what a decoder can answer. -/

namespace Sys2Proof

/-- Every bit of a written transaction (30_encoding.md R49). -/
theorem getLsbD_writeTxn (addr : RegNum) (data : Word) (i : Nat) :
    (writeTxn addr data).getLsbD i =
      if i < 128 then data.getLsbD i else if i < 132 then addr.getLsbD (i - 128) else decide (i = 132) := by
  have h : (writeTxn addr data).getLsbD i = BitVec.getLsbD (w := 1 + 4 + 128) (1#1 ++ addr ++ data) i := rfl
  rw [h, BitVec.getLsbD_append, BitVec.getLsbD_append]
  by_cases h1 : i < 128
  · simp [h1]
  · by_cases h2 : i < 132
    · simp [h1, h2, show i - 128 < 4 by omega]
    · have h3 : ¬ i - 128 < 4 := by omega
      simp [h1, h2, h3, BitVec.getLsbD_one]
      omega

@[simp] theorem txnWe_writeTxn (addr : RegNum) (data : Word) : txnWe (writeTxn addr data) = true := by
  have h : BitVec.extractLsb' 132 1 (writeTxn addr data) = 1#1 := by
    ext i hi
    have : i = 0 := by omega
    subst this
    simp [getLsbD_writeTxn]
  simp [txnWe, h]

@[simp] theorem txnAddr_writeTxn (addr : RegNum) (data : Word) : txnAddr (writeTxn addr data) = addr := by
  ext i hi
  simp [txnAddr, getLsbD_writeTxn, hi, show 128 + i < 132 by omega]

@[simp] theorem txnData_writeTxn (addr : RegNum) (data : Word) : txnData (writeTxn addr data) = data := by
  ext i hi
  simp [txnData, getLsbD_writeTxn, hi]

@[simp] theorem txnWe_readTxn (addr : RegNum) : txnWe (readTxn addr) = false := by
  revert addr; decide

@[simp] theorem txnAddr_readTxn (addr : RegNum) : txnAddr (readTxn addr) = addr := by
  revert addr; decide

/-- A written transaction decodes by its register number. -/
theorem decodeTxn_writeTxn (addr : RegNum) (data : Word) : decodeTxn (writeTxn addr data) = decodeWrite addr data := by
  simp [decodeTxn]

/-- A read transaction decodes to the read of its register number. -/
theorem decodeTxn_readTxn (addr : RegNum) : decodeTxn (readTxn addr) = .regrd addr := by
  simp [decodeTxn]

/-- The verdict on the command word of a command that can be issued. -/
theorem verdict_word (op : Op) : verdict op.word = .issue op := by cases op <;> decide

end Sys2Proof
end

