-- ==== Sys2Proof/Laws/Field.lean ====
section
/-! SUPPORT. The bits and the linearity of the arithmetic's recursive functions. -/

namespace Sys2Proof.Machine

/-- The bits of a reversal (00_scope.md R7). -/
theorem bitrev_getLsbD {n : Nat} (v : BitVec n) (i : Nat) (hi : i < n) : (bitrev v).getLsbD i = v.getLsbD (n - 1 - i) := by
  rw [bitrev, BitVec.getLsbD_reverse, BitVec.getMsbD]
  simp [hi]

/-- The bits of byte E[k] of an external-form word (20_memory.md R33). -/
theorem externalByte_getLsbD (w : Word) (k j : Nat) (hj : j < 8) :
    (externalByte w k).getLsbD j = w.getLsbD (120 - 8 * k + j) := by
  simp [externalByte, hj]

/-- One more set bit of `a` adds one more shifted copy of `b`. -/
theorem clmulUpTo_succ {m n : Nat} (a : BitVec m) (b : BitVec n) (i : Nat) :
    clmulUpTo a b (i + 1) =
      clmulUpTo a b i ^^^ (if a.getLsbD i then b.setWidth (m + n) <<< i else 0#(m + n)) := rfl

/-- Exclusive or of words, four at a time, in the order the folds need. -/
theorem xor_four {n : Nat} (p q r s : BitVec n) : (p ^^^ q) ^^^ (r ^^^ s) = (p ^^^ r) ^^^ (q ^^^ s) := by
  ext i hi
  simp only [BitVec.getElem_xor]
  cases p[i] <;> cases q[i] <;> cases r[i] <;> cases s[i] <;> rfl

theorem clmulUpTo_xor_left {m n : Nat} (a c : BitVec m) (b : BitVec n) (i : Nat) :
    clmulUpTo (a ^^^ c) b i = clmulUpTo a b i ^^^ clmulUpTo c b i := by
  induction i with
  | zero => simp [clmulUpTo]
  | succ i ih =>
    rw [clmulUpTo_succ, clmulUpTo_succ, clmulUpTo_succ, ih, xor_four, BitVec.getLsbD_xor]
    cases a.getLsbD i <;> cases c.getLsbD i <;> simp

theorem clmulUpTo_xor_right {m n : Nat} (a : BitVec m) (b d : BitVec n) (i : Nat) :
    clmulUpTo a (b ^^^ d) i = clmulUpTo a b i ^^^ clmulUpTo a d i := by
  induction i with
  | zero => simp [clmulUpTo]
  | succ i ih =>
    rw [clmulUpTo_succ, clmulUpTo_succ, clmulUpTo_succ, ih, xor_four]
    cases a.getLsbD i
    · simp
    · simp [BitVec.setWidth_xor, BitVec.shiftLeft_xor_distrib]

theorem foldTop_succ {n : Nat} (k : Nat) (v : BitVec n) :
    foldTop (k + 1) v =
      foldTop k (v ^^^ if v.getLsbD (128 + k) then Config.fieldPoly.setWidth n <<< k else 0#n) := by
  change foldTop k (if v.getLsbD (128 + k) then v ^^^ (Config.fieldPoly.setWidth n <<< k) else v) = _
  split <;> simp

/-- Long division is linear: the quotient bit of a sum is the sum of the quotient bits. -/
theorem foldTop_xor {n : Nat} (k : Nat) : ∀ v u : BitVec n, foldTop k (v ^^^ u) = foldTop k v ^^^ foldTop k u := by
  induction k with
  | zero => intro v u; rfl
  | succ k ih =>
    intro v u
    rw [foldTop_succ, foldTop_succ, foldTop_succ, ← ih, xor_four, BitVec.getLsbD_xor]
    congr 2
    cases v.getLsbD (128 + k) <;> cases u.getLsbD (128 + k) <;> simp

theorem pmod_xor {n : Nat} (v u : BitVec n) : pmod (v ^^^ u) = pmod v ^^^ pmod u := by
  rw [pmod, foldTop_xor, BitVec.setWidth_xor]; rfl

theorem patternSum_succ (h : Word) (k : Nat) :
    patternSum h (k + 1) = patternSum h k ^^^ (if h.getLsbD k then pattern k else 0#128) := rfl

theorem patternSum_xor (h g : Word) (k : Nat) : patternSum (h ^^^ g) k = patternSum h k ^^^ patternSum g k := by
  induction k with
  | zero => simp [patternSum]
  | succ k ih =>
    rw [patternSum_succ, patternSum_succ, patternSum_succ, ih, xor_four, BitVec.getLsbD_xor]
    cases h.getLsbD k <;> cases g.getLsbD k <;> simp

end Sys2Proof.Machine
end

