-- ==== Sys2Proof/Laws/State.lean ====
section
/-! SUPPORT. What each field holds after each update of the state. -/

namespace Sys2Proof.Machine

section
variable (s : State)

@[simp] theorem State.respond_opa (v : Word) : (s.respond v).opa = s.opa := rfl
@[simp] theorem State.respond_opb (v : Word) : (s.respond v).opb = s.opb := rfl
@[simp] theorem State.respond_res (v : Word) : (s.respond v).res = s.res := rfl
@[simp] theorem State.respond_resh (v : Word) : (s.respond v).resh = s.resh := rfl
@[simp] theorem State.respond_busy (v : Word) : (s.respond v).busy = s.busy := rfl
@[simp] theorem State.respond_ill (v : Word) : (s.respond v).ill = s.ill := rfl
@[simp] theorem State.respond_ovr (v : Word) : (s.respond v).ovr = s.ovr := rfl
@[simp] theorem State.respond_pend (v : Word) : (s.respond v).pend = s.pend := rfl
@[simp] theorem State.respond_schedule (v : Word) : (s.respond v).schedule = s.schedule := rfl
@[simp] theorem State.respond_reads (v : Word) : (s.respond v).reads = s.reads ++ [v] := rfl

@[simp] theorem State.issue_opa (op : Op) : (s.issue op).opa = s.opa := rfl
@[simp] theorem State.issue_opb (op : Op) : (s.issue op).opb = s.opb := rfl
@[simp] theorem State.issue_res (op : Op) : (s.issue op).res = s.res := rfl
@[simp] theorem State.issue_resh (op : Op) : (s.issue op).resh = s.resh := rfl
@[simp] theorem State.issue_busy (op : Op) : (s.issue op).busy = true := rfl
@[simp] theorem State.issue_ill (op : Op) : (s.issue op).ill = s.ill := rfl
@[simp] theorem State.issue_ovr (op : Op) : (s.issue op).ovr = s.ovr := rfl
@[simp] theorem State.issue_pend (op : Op) : (s.issue op).pend = some ⟨op, s.opa, s.opb⟩ := rfl
@[simp] theorem State.issue_schedule (op : Op) : (s.issue op).schedule = s.schedule := rfl
@[simp] theorem State.issue_reads (op : Op) : (s.issue op).reads = s.reads := rfl

@[simp] theorem State.flagIllegal_opa : (s.flagIllegal).opa = s.opa := rfl
@[simp] theorem State.flagIllegal_opb : (s.flagIllegal).opb = s.opb := rfl
@[simp] theorem State.flagIllegal_res : (s.flagIllegal).res = s.res := rfl
@[simp] theorem State.flagIllegal_resh : (s.flagIllegal).resh = s.resh := rfl
@[simp] theorem State.flagIllegal_busy : (s.flagIllegal).busy = s.busy := rfl
@[simp] theorem State.flagIllegal_ill : (s.flagIllegal).ill = true := rfl
@[simp] theorem State.flagIllegal_ovr : (s.flagIllegal).ovr = s.ovr := rfl
@[simp] theorem State.flagIllegal_pend : (s.flagIllegal).pend = s.pend := rfl
@[simp] theorem State.flagIllegal_schedule : (s.flagIllegal).schedule = s.schedule := rfl
@[simp] theorem State.flagIllegal_reads : (s.flagIllegal).reads = s.reads := rfl

@[simp] theorem State.flagOverrun_opa : (s.flagOverrun).opa = s.opa := rfl
@[simp] theorem State.flagOverrun_opb : (s.flagOverrun).opb = s.opb := rfl
@[simp] theorem State.flagOverrun_res : (s.flagOverrun).res = s.res := rfl
@[simp] theorem State.flagOverrun_resh : (s.flagOverrun).resh = s.resh := rfl
@[simp] theorem State.flagOverrun_busy : (s.flagOverrun).busy = s.busy := rfl
@[simp] theorem State.flagOverrun_ill : (s.flagOverrun).ill = s.ill := rfl
@[simp] theorem State.flagOverrun_ovr : (s.flagOverrun).ovr = true := rfl
@[simp] theorem State.flagOverrun_pend : (s.flagOverrun).pend = s.pend := rfl
@[simp] theorem State.flagOverrun_schedule : (s.flagOverrun).schedule = s.schedule := rfl
@[simp] theorem State.flagOverrun_reads : (s.flagOverrun).reads = s.reads := rfl

@[simp] theorem State.clearFlags_opa (w : Word) : (s.clearFlags w).opa = s.opa := rfl
@[simp] theorem State.clearFlags_opb (w : Word) : (s.clearFlags w).opb = s.opb := rfl
@[simp] theorem State.clearFlags_res (w : Word) : (s.clearFlags w).res = s.res := rfl
@[simp] theorem State.clearFlags_resh (w : Word) : (s.clearFlags w).resh = s.resh := rfl
@[simp] theorem State.clearFlags_busy (w : Word) : (s.clearFlags w).busy = s.busy := rfl
@[simp] theorem State.clearFlags_ill (w : Word) : (s.clearFlags w).ill = (s.ill && !w.getLsbD 1) := rfl
@[simp] theorem State.clearFlags_ovr (w : Word) : (s.clearFlags w).ovr = (s.ovr && !w.getLsbD 2) := rfl
@[simp] theorem State.clearFlags_pend (w : Word) : (s.clearFlags w).pend = s.pend := rfl
@[simp] theorem State.clearFlags_schedule (w : Word) : (s.clearFlags w).schedule = s.schedule := rfl
@[simp] theorem State.clearFlags_reads (w : Word) : (s.clearFlags w).reads = s.reads := rfl

@[simp] theorem State.applyReset_opa : (s.applyReset).opa = 0#128 := rfl
@[simp] theorem State.applyReset_opb : (s.applyReset).opb = 0#128 := rfl
@[simp] theorem State.applyReset_res : (s.applyReset).res = 0#128 := rfl
@[simp] theorem State.applyReset_resh : (s.applyReset).resh = 0#128 := rfl
@[simp] theorem State.applyReset_busy : (s.applyReset).busy = false := rfl
@[simp] theorem State.applyReset_ill : (s.applyReset).ill = false := rfl
@[simp] theorem State.applyReset_ovr : (s.applyReset).ovr = false := rfl
@[simp] theorem State.applyReset_pend : (s.applyReset).pend = none := rfl
@[simp] theorem State.applyReset_schedule : (s.applyReset).schedule = s.schedule := rfl
@[simp] theorem State.applyReset_reads : (s.applyReset).reads = s.reads := rfl

@[simp] theorem State.dropSlot_opa : (s.dropSlot).opa = s.opa := rfl
@[simp] theorem State.dropSlot_opb : (s.dropSlot).opb = s.opb := rfl
@[simp] theorem State.dropSlot_res : (s.dropSlot).res = s.res := rfl
@[simp] theorem State.dropSlot_resh : (s.dropSlot).resh = s.resh := rfl
@[simp] theorem State.dropSlot_busy : (s.dropSlot).busy = s.busy := rfl
@[simp] theorem State.dropSlot_ill : (s.dropSlot).ill = s.ill := rfl
@[simp] theorem State.dropSlot_ovr : (s.dropSlot).ovr = s.ovr := rfl
@[simp] theorem State.dropSlot_pend : (s.dropSlot).pend = s.pend := rfl
@[simp] theorem State.dropSlot_schedule : (s.dropSlot).schedule = s.schedule.tail := rfl
@[simp] theorem State.dropSlot_reads : (s.dropSlot).reads = s.reads := rfl

@[simp] theorem State.present_opa (w : TxnWord) : (s.present w).opa = s.opa := rfl
@[simp] theorem State.present_opb (w : TxnWord) : (s.present w).opb = s.opb := rfl
@[simp] theorem State.present_res (w : TxnWord) : (s.present w).res = s.res := rfl
@[simp] theorem State.present_resh (w : TxnWord) : (s.present w).resh = s.resh := rfl
@[simp] theorem State.present_busy (w : TxnWord) : (s.present w).busy = s.busy := rfl
@[simp] theorem State.present_ill (w : TxnWord) : (s.present w).ill = s.ill := rfl
@[simp] theorem State.present_ovr (w : TxnWord) : (s.present w).ovr = s.ovr := rfl
@[simp] theorem State.present_pend (w : TxnWord) : (s.present w).pend = s.pend := rfl
@[simp] theorem State.present_schedule (w : TxnWord) : (s.present w).schedule = .host w :: s.schedule := rfl
@[simp] theorem State.present_reads (w : TxnWord) : (s.present w).reads = s.reads := rfl

end

/-! The fields that completion leaves alone (40_command_interface.md R73). -/

@[simp] theorem State.complete_opa (s : State) : s.complete.opa = s.opa := by
  unfold State.complete; split <;> rfl
@[simp] theorem State.complete_opb (s : State) : s.complete.opb = s.opb := by
  unfold State.complete; split <;> rfl
@[simp] theorem State.complete_ill (s : State) : s.complete.ill = s.ill := by
  unfold State.complete; split <;> rfl
@[simp] theorem State.complete_ovr (s : State) : s.complete.ovr = s.ovr := by
  unfold State.complete; split <;> rfl
@[simp] theorem State.complete_schedule (s : State) : s.complete.schedule = s.schedule := by
  unfold State.complete; split <;> rfl
@[simp] theorem State.complete_reads (s : State) : s.complete.reads = s.reads := by
  unfold State.complete; split <;> rfl

@[simp] theorem State.complete_pend (s : State) : s.complete.pend = none := by
  unfold State.complete; split <;> simp_all

end Sys2Proof.Machine
end

