-- ==== Sys2Proof/Laws/Ops.lean ====
section
/-! SUPPORT. What each shared operation, exec and step can do, said once. -/

namespace Sys2Proof.Machine

section
variable {s t : State}

theorem State.command_idle (act : State → State) (h : s.busy = false) : s.command act = act s := by
  simp [State.command, h]

theorem State.command_busy (act : State → State) (h : s.busy = true) : s.command act = s.flagOverrun := by
  simp [State.command, h]

theorem State.complete_none (h : s.pend = none) : s.complete = s := by
  simp [State.complete, h]

theorem State.complete_some {p : Pending} (h : s.pend = some p) :
    s.complete =
      { s with res := (result p.op p.a p.b).1, resh := (result p.op p.a p.b).2, pend := none, busy := false } := by
  simp [State.complete, h]

theorem State.nextSlot_cons {slot : Slot} {rest : List Slot} (h : s.schedule = slot :: rest) :
    s.nextSlot = some slot := by
  simp [State.nextSlot, h]

theorem State.nextSlot_nil (h : s.schedule = []) : s.nextSlot = if s.pend.isSome then some .core else none := by
  simp [State.nextSlot, h]

theorem State.dropSlot_present (w : TxnWord) : (s.present w).dropSlot = s := rfl

theorem State.dropSlot_cons {slot : Slot} {rest : List Slot} (h : s.schedule = slot :: rest) :
    s.dropSlot = { s with schedule := rest } := by
  simp [State.dropSlot, h]

/-- The meaning of the instruction that issues an operation (40_command_interface.md R70). -/
theorem exec_instr (op : Op) : exec op.instr s = .next (s.command (State.issue op)) := by
  cases op <;> rfl

theorem execRegwrCmd_busy (c : Word) (h : s.busy = true) : execRegwrCmd c s = .next s.flagOverrun := by
  simp [execRegwrCmd, h]

theorem execRegwrCmd_illegal {c : Word} (h : s.busy = false) (hv : verdict c = .illegal) :
    execRegwrCmd c s = .next s.flagIllegal := by
  simp [execRegwrCmd, h, hv]

theorem execRegwrCmd_nop {c : Word} (h : s.busy = false) (hv : verdict c = .nop) : execRegwrCmd c s = .next s := by
  simp [execRegwrCmd, h, hv, execNop, State.command_idle]

theorem execRegwrCmd_issue {c : Word} {op : Op} (h : s.busy = false) (hv : verdict c = .issue op) :
    execRegwrCmd c s = .next (s.issue op) := by
  cases op <;>
    simp [execRegwrCmd, h, hv, execEnc, execDec, execGmul, execClmul, execRed, State.command_idle]

/-- The instructions that write nothing in any state (40_command_interface.md R67). -/
def Ignored : Instr → Prop
  | .regwrRes _ => True
  | .regwrResh _ => True
  | .regwrRsv67 _ _ => True
  | .regwrRsv815 _ _ => True
  | _ => False

/-- The instructions that write CMD (30_encoding.md R58). -/
def WritesCmd : Instr → Prop
  | .regwrCmd _ => True
  | .nop => True
  | .enc => True
  | .dec => True
  | .gmul => True
  | .clmul => True
  | .red => True
  | _ => False

/-- A transaction word never decodes to one of the six commands: it decodes to the CMD write that carries it. -/
theorem decodeTxn_writesCmd {w : TxnWord} (h : WritesCmd (decodeTxn w)) : ∃ c, decodeTxn w = .regwrCmd c := by
  unfold decodeTxn at h ⊢
  split at h
  · rename_i hw
    rw [if_pos hw]
    unfold decodeWrite at h ⊢
    split at h <;> first | exact ⟨_, rfl⟩ | exact h.elim
  · exact h.elim

/-- In particular it is no issuing instruction. -/
theorem decodeTxn_ne_instr (w : TxnWord) (op : Op) : decodeTxn w ≠ op.instr := by
  intro h
  obtain ⟨c, hc⟩ := decodeTxn_writesCmd (w := w) (by rw [h]; cases op <;> trivial)
  rw [h] at hc
  cases op <;> cases hc

/-- Everything an executed instruction can do. -/
theorem exec_cases {i : Instr} (h : exec i s = .next t) :
    (∃ n, i = .regrd n ∧ t = s.respond (s.readReg n)) ∨
    (∃ w, i = .regwrOpa w ∧ t = { s with opa := w }) ∨
    (∃ w, i = .regwrOpb w ∧ t = { s with opb := w }) ∨
    (∃ w, i = .regwrStatus w ∧ t = s.clearFlags w) ∨
    (Ignored i ∧ t = s) ∨
    (s.busy = true ∧ WritesCmd i ∧ t = s.flagOverrun) ∨
    (s.busy = false ∧ (i = .nop ∨ ∃ c, i = .regwrCmd c ∧ verdict c = .nop) ∧ t = s) ∨
    (s.busy = false ∧ (∃ c, i = .regwrCmd c ∧ verdict c = .illegal) ∧ t = s.flagIllegal) ∨
    (s.busy = false ∧ ∃ op, (i = op.instr ∨ ∃ c, i = .regwrCmd c ∧ verdict c = .issue op) ∧ t = s.issue op) := by
  have issued : ∀ op : Op, exec op.instr s = .next t →
      (s.busy = true ∧ t = s.flagOverrun) ∨ (s.busy = false ∧ t = s.issue op) := by
    intro op h
    rw [exec_instr] at h
    cases hb : s.busy
    · rw [State.command_idle _ hb] at h; cases h; exact .inr ⟨rfl, rfl⟩
    · rw [State.command_busy _ hb] at h; cases h; exact .inl ⟨rfl, rfl⟩
  cases i with
  | regrd n => cases h; exact .inl ⟨n, rfl, rfl⟩
  | regwrOpa w => cases h; exact .inr (.inl ⟨w, rfl, rfl⟩)
  | regwrOpb w => cases h; exact .inr (.inr (.inl ⟨w, rfl, rfl⟩))
  | regwrStatus w => cases h; exact .inr (.inr (.inr (.inl ⟨w, rfl, rfl⟩)))
  | regwrRes _ => cases h; simp [Ignored]
  | regwrResh _ => cases h; simp [Ignored]
  | regwrRsv67 _ _ => cases h; simp [Ignored]
  | regwrRsv815 _ _ => cases h; simp [Ignored]
  | regwrCmd c =>
    change execRegwrCmd c s = .next t at h
    cases hb : s.busy
    · cases hv : verdict c with
      | illegal => rw [execRegwrCmd_illegal hb hv] at h; cases h; simp [hv]
      | nop => rw [execRegwrCmd_nop hb hv] at h; cases h; simp [hv]
      | issue op => rw [execRegwrCmd_issue hb hv] at h; cases h; simp [hv]
    · rw [execRegwrCmd_busy c hb] at h; cases h
      exact .inr (.inr (.inr (.inr (.inr (.inl ⟨rfl, trivial, rfl⟩)))))
  | nop =>
    change Host.Outcome.next (s.command id) = .next t at h
    cases hb : s.busy
    · rw [State.command_idle _ hb] at h; cases h; simp
    · rw [State.command_busy _ hb] at h; cases h
      exact .inr (.inr (.inr (.inr (.inr (.inl ⟨rfl, trivial, rfl⟩)))))
  | enc =>
    obtain ⟨hb, rfl⟩ | ⟨hb, rfl⟩ := issued .enc h
    · exact .inr (.inr (.inr (.inr (.inr (.inl ⟨hb, trivial, rfl⟩)))))
    · iterate 8 apply Or.inr
      exact ⟨hb, .enc, .inl rfl, rfl⟩
  | dec =>
    obtain ⟨hb, rfl⟩ | ⟨hb, rfl⟩ := issued .dec h
    · exact .inr (.inr (.inr (.inr (.inr (.inl ⟨hb, trivial, rfl⟩)))))
    · iterate 8 apply Or.inr
      exact ⟨hb, .dec, .inl rfl, rfl⟩
  | gmul =>
    obtain ⟨hb, rfl⟩ | ⟨hb, rfl⟩ := issued .gmul h
    · exact .inr (.inr (.inr (.inr (.inr (.inl ⟨hb, trivial, rfl⟩)))))
    · iterate 8 apply Or.inr
      exact ⟨hb, .gmul, .inl rfl, rfl⟩
  | clmul =>
    obtain ⟨hb, rfl⟩ | ⟨hb, rfl⟩ := issued .clmul h
    · exact .inr (.inr (.inr (.inr (.inr (.inl ⟨hb, trivial, rfl⟩)))))
    · iterate 8 apply Or.inr
      exact ⟨hb, .clmul, .inl rfl, rfl⟩
  | red =>
    obtain ⟨hb, rfl⟩ | ⟨hb, rfl⟩ := issued .red h
    · exact .inr (.inr (.inr (.inr (.inr (.inl ⟨hb, trivial, rfl⟩)))))
    · iterate 8 apply Or.inr
      exact ⟨hb, .red, .inl rfl, rfl⟩

/-- Everything a step can do (40_command_interface.md R62). -/
theorem step_cases (h : step s = .next t) :
    (s.nextSlot = none ∧ t = s) ∨
    (∃ w, s.nextSlot = some (.host w) ∧ exec (decodeTxn w) s.dropSlot = .next t) ∨
    (s.nextSlot = some .core ∧ t = s.dropSlot.complete) ∨
    (s.nextSlot = some .reset ∧ t = s.dropSlot.applyReset) := by
  unfold step at h
  split at h
  · rename_i hn; cases h; exact .inl ⟨hn, rfl⟩
  · rename_i w hn; exact .inr (.inl ⟨w, hn, h⟩)
  · rename_i hn; cases h; exact .inr (.inr (.inl ⟨hn, rfl⟩))
  · rename_i hn; cases h; exact .inr (.inr (.inr ⟨hn, rfl⟩))

end

end Sys2Proof.Machine
end

