-- ==== Sys2Proof/Laws/PerInstr.lean ====
section
/-! SUPPORT. One family of facts about every instruction as syntax: decoding its word gives it back. -/

namespace Sys2Proof.Laws.RoundTrip

/-- Decoding the word of a well-formed instruction gives the instruction. -/
def Statement (i : Instr) : Prop := i.wf = true → decode (encode i) = .ok i

theorem regrd (addr : RegNum) : Statement (.regrd addr) := by
  intro _; simp [encode, decode, decodeTxn_readTxn]

theorem regwrOpa (data : Word) : Statement (.regwrOpa data) := by
  intro _; simp [encode, decode, decodeTxn_writeTxn]; rfl

theorem regwrOpb (data : Word) : Statement (.regwrOpb data) := by
  intro _; simp [encode, decode, decodeTxn_writeTxn]; rfl

theorem regwrRes (data : Word) : Statement (.regwrRes data) := by
  intro _; simp [encode, decode, decodeTxn_writeTxn]; rfl

theorem regwrResh (data : Word) : Statement (.regwrResh data) := by
  intro _; simp [encode, decode, decodeTxn_writeTxn]; rfl

theorem regwrCmd (data : Word) : Statement (.regwrCmd data) := by
  intro _; simp [encode, decode, decodeTxn_writeTxn]; rfl

theorem regwrStatus (data : Word) : Statement (.regwrStatus data) := by
  intro _; simp [encode, decode, decodeTxn_writeTxn]; rfl

theorem regwrRsv67 (addr : RegNum) (data : Word) : Statement (.regwrRsv67 addr data) := by
  intro h
  have : addr = 6#4 ∨ addr = 7#4 := by simpa [Instr.wf] using h
  rcases this with rfl | rfl <;> simp [encode, decode, decodeTxn_writeTxn] <;> rfl

theorem regwrRsv815 (addr : RegNum) (data : Word) : Statement (.regwrRsv815 addr data) := by
  intro h
  have high : ∀ a : RegNum, a.getLsbD 3 = true → decodeWrite a data = .regwrRsv815 a data := by
    intro a ha
    have : 8 ≤ a.toNat := by revert a; decide
    unfold decodeWrite
    split <;> first | rfl | omega
  simp [encode, decode, decodeTxn_writeTxn, high addr h]

theorem nop : Statement .nop := by intro _; rfl

theorem enc : Statement .enc := by intro _; rfl

theorem dec : Statement .dec := by intro _; rfl

theorem gmul : Statement .gmul := by intro _; rfl

theorem clmul : Statement .clmul := by intro _; rfl

theorem red : Statement .red := by intro _; rfl

end Sys2Proof.Laws.RoundTrip
end

