-- ==== Sys2Proof/Laws/Run.lean ====
section
/-! SUPPORT. Runs of the machine, one step and then the rest. -/

namespace Sys2Proof.Machine

@[simp] theorem runSteps_zero (s : State) : runSteps 0 s = .next s := rfl

/-- A run's first step. -/
theorem runSteps_succ {k : Nat} {s t : State} (h : step s = .next t) : runSteps (k + 1) s = runSteps k t := by
  simp only [runSteps, h]

/-- A run in two parts. -/
theorem runSteps_add {j : Nat} : ∀ {k : Nat} {s t : State}, runSteps k s = .next t → runSteps (k + j) s = runSteps j t
  | 0, s, t, h => by
    cases h; rw [Nat.zero_add]
  | k + 1, s, t, h => by
    cases hs : step s with
    | next u =>
      rw [runSteps_succ hs] at h
      rw [show k + 1 + j = (k + j) + 1 by omega, runSteps_succ hs]
      exact runSteps_add h
    | fault r => nomatch r
    | refused r => simp [runSteps, hs] at h

/-- The runs of the statements are the runs of the host's interface. -/
theorem runSteps_eq_run (k : Nat) (s : State) : runSteps k s = Host.Core.run core k s := by
  induction k generalizing s with
  | zero => rfl
  | succ k ih =>
    cases hs : step s with
    | next t =>
      have hs' : core.step s = .next t := hs
      simp only [runSteps, Host.Core.run, hs, hs', ih]
      rfl
    | fault r => nomatch r
    | refused r =>
      have hs' : core.step s = .refused r := hs
      simp only [runSteps, Host.Core.run, hs, hs']
      rfl

/-! ## What ends a result, and the last completion, by the next slot -/

variable {s : State}

theorem State.endsResult_idle (h : s.nextSlot = none) : s.endsResult = false := by
  simp [State.endsResult, h]

theorem State.endsResult_core (h : s.nextSlot = some .core) : s.endsResult = false := by
  simp [State.endsResult, h]

theorem State.endsResult_reset (h : s.nextSlot = some .reset) : s.endsResult = true := by
  simp [State.endsResult, h]

theorem State.endsResult_issue {w : TxnWord} {c : Word} {op : Op} (h : s.nextSlot = some (.host w))
    (hi : decodeTxn w = .regwrCmd c) (hv : verdict c = .issue op) : s.endsResult = !s.busy := by
  simp [State.endsResult, h, hi, hv]

@[simp] theorem lastCompleted_idle (done : Option Op) (h : s.nextSlot = none) : lastCompleted done s = done := by
  simp [lastCompleted, h]

@[simp] theorem lastCompleted_host (done : Option Op) {w : TxnWord} (h : s.nextSlot = some (.host w)) :
    lastCompleted done s = done := by
  simp [lastCompleted, h]

@[simp] theorem lastCompleted_reset (done : Option Op) (h : s.nextSlot = some .reset) : lastCompleted done s = none := by
  simp [lastCompleted, h]

theorem lastCompleted_core_none (done : Option Op) (h : s.nextSlot = some .core) (hp : s.pend = none) :
    lastCompleted done s = done := by
  simp [lastCompleted, h, hp]

theorem lastCompleted_core_some (done : Option Op) {p : Pending} (h : s.nextSlot = some .core) (hp : s.pend = some p) :
    lastCompleted done s = some p.op := by
  simp [lastCompleted, h, hp]

end Sys2Proof.Machine
end

