-- ==== Sys2Proof/Tests/Slice0.lean ====
section
/-! SUPPORT. Tests on fixed values, with their results from spec/95_test_vectors.md or written out from the spec's
encodings, and for every statement with hypotheses a witness that they can be met together. -/

-- The tests are checked one after the other: side by side their kernel evaluations take far more memory.
set_option Elab.async false

namespace Sys2Proof.Tests

open Sys2Proof Sys2Proof.Machine

/-! ## Helpers -/

/-- The next state of an outcome, for comparison. -/
def after : Host.Outcome State Fault Refusal → Option State
  | .next s => some s
  | .fault _ => none
  | .refused _ => none

/-- The idle block with operands. -/
def idle (a b : Word) : State := { State.reset with opa := a, opb := b }

/-- The block with a pending command. -/
def pending (op : Op) (a b : Word) : State := { idle a b with pend := some ⟨op, a, b⟩, busy := true }

/-- The words RES and RESH hold after a step that completes a command. -/
def completes (op : Op) (a b : Word) : Option (Word × Word) :=
  (after (step { pending op a b with schedule := [.core] })).map fun t => (t.res, t.resh)

/-! ## Well-formedness: an ill-formed term for each check -/

theorem test_wf_rsv67_refuses_8 : (Instr.regwrRsv67 8#4 0#128).wf = false := by decide
theorem test_wf_rsv67_refuses_5 : (Instr.regwrRsv67 5#4 0#128).wf = false := by decide
theorem test_wf_rsv815_refuses_7 : (Instr.regwrRsv815 7#4 0#128).wf = false := by decide

/-! ## Decoding: every row by a word written out from R49 to R51, most of them words of the programs P1 to P4 -/

theorem test_decode_regrd : decodeTableWord 136 0x0500000000000000000000000000000000 = some (.regrd 5#4) := by
  decide +kernel
theorem test_decode_regrd_ignores_data : decodeTableWord 136 0x0fffffffffffffffffffffffffffffffff = some (.regrd 15#4) := by
  decide +kernel
theorem test_decode_regwrOpa :
    decodeTableWord 136 0x1066e94bd4ef8a2c3b884cfa59ca342b2e = some (.regwrOpa 0x66e94bd4ef8a2c3b884cfa59ca342b2e#128) := by
  decide +kernel
theorem test_decode_regwrOpb :
    decodeTableWord 136 0x1140000000000000000000000000000000 = some (.regwrOpb 0x40000000000000000000000000000000#128) := by
  decide +kernel
theorem test_decode_regwrRes : decodeTableWord 136 0x1200000000000000000000000000000005 = some (.regwrRes 5#128) := by
  decide +kernel
theorem test_decode_regwrResh : decodeTableWord 136 0x1300000000000000000000000000000005 = some (.regwrResh 5#128) := by
  decide +kernel
theorem test_decode_regwrCmd : decodeTableWord 136 0x1400000000000000000000000000000013 = some (.regwrCmd 0x13#128) := by
  decide +kernel
theorem test_decode_regwrStatus : decodeTableWord 136 0x1500000000000000000000000000000004 = some (.regwrStatus 4#128) := by
  decide +kernel
theorem test_decode_rsv_7 : decodeTableWord 136 0x1700000000000000000000000000000001 = some (.regwrRsv67 7#4 1#128) := by
  decide +kernel
theorem test_decode_rsv_8 : decodeTableWord 136 0x1800000000000000000000000000000001 = some (.regwrRsv815 8#4 1#128) := by
  decide +kernel
theorem test_decode_nop : decodeTableWord 128 0x0 = some .nop := by decide +kernel
theorem test_decode_enc : decodeTableWord 128 0x1 = some .enc := by decide +kernel
theorem test_decode_dec : decodeTableWord 128 0x2 = some .dec := by decide +kernel
theorem test_decode_gmul : decodeTableWord 128 0x3 = some .gmul := by decide +kernel
theorem test_decode_clmul : decodeTableWord 128 0x4 = some .clmul := by decide +kernel
theorem test_decode_red : decodeTableWord 128 0x5 = some .red := by decide +kernel

theorem test_decode_refuses_reserved_op : decodeWord 128 0x6 = .error .illegalCommand := by decide +kernel
theorem test_decode_refuses_reserved_bit :
    decodeWord 128 0x80000000000000000000000000000003 = .error .illegalCommand := by decide +kernel
theorem test_decode_refuses_bit_133 : decodeWord 136 0x3000000000000000000000000000000000 = .error .tooWide := by
  decide +kernel
theorem test_decode_refuses_length : decodeWord 144 0 = .error .noFormat := by decide +kernel

/-! ## Transactions (95_test_vectors.md section 2.1) -/

theorem test_T2_read_status : after (exec (.regrd 5#4) State.reset) = some { State.reset with reads := [0x0#128] } := by
  decide +kernel
theorem test_T26_read_status_leaves_flags :
    after (exec (.regrd 5#4) { State.reset with ill := true, ovr := true }) =
      some { State.reset with ill := true, ovr := true, reads := [0x6#128] } := by decide +kernel
theorem test_T5_write_opa : after (exec (.regwrOpa 1#128) State.reset) = some { State.reset with opa := 1#128 } := by
  decide +kernel
theorem test_R66_write_opb : after (exec (.regwrOpb 0xff#128) State.reset) = some { State.reset with opb := 0xff#128 } := by
  decide +kernel
theorem test_T6_write_res_ignored : after (exec (.regwrRes 5#128) State.reset) = some State.reset := by decide +kernel
theorem test_R67_write_resh_ignored : after (exec (.regwrResh 5#128) State.reset) = some State.reset := by decide +kernel
theorem test_T7_write_7_ignored :
    after (exec (.regwrRsv67 7#4 (BitVec.allOnes 128)) State.reset) = some State.reset := by decide +kernel
theorem test_R67_write_15_ignored :
    after (exec (.regwrRsv815 15#4 (BitVec.allOnes 128)) State.reset) = some State.reset := by decide +kernel
theorem test_T21_clear_ill :
    after (exec (.regwrStatus 2#128) { State.reset with ill := true, ovr := true }) =
      some { State.reset with ovr := true } := by decide +kernel
theorem test_T19_status_bit_0_ignored :
    after (exec (.regwrStatus 1#128) (pending .gmul 3#128 3#128)) = some (pending .gmul 3#128 3#128) := by decide +kernel
theorem test_T10_reserved_bit_is_illegal :
    after (exec (.regwrCmd 0x10#128) State.reset) = some { State.reset with ill := true } := by decide +kernel
theorem test_T15_illegal_while_busy_is_overrun :
    after (exec (.regwrCmd 0x6#128) (pending .gmul 3#128 3#128)) =
      some { pending .gmul 3#128 3#128 with ovr := true } := by decide +kernel

/-! ## Commands: issue and completion (sections 2.1 to 2.5) -/

theorem test_T12_nop : after (exec .nop State.reset) = some State.reset := by decide +kernel
theorem test_T16_nop_while_busy :
    after (exec .nop (pending .gmul 3#128 3#128)) = some { pending .gmul 3#128 3#128 with ovr := true } := by decide +kernel
theorem test_T13_gmul_issues :
    after (exec .gmul (idle 3#128 3#128)) = some (pending .gmul 3#128 3#128) := by decide +kernel
theorem test_R70_red_issues : after (exec .red (idle 1#128 0#128)) = some (pending .red 1#128 0#128) := by decide +kernel
theorem test_enc_issues : after (exec .enc (idle 1#128 2#128)) = some (pending .enc 1#128 2#128) := by decide +kernel
theorem test_dec_issues : after (exec .dec (idle 1#128 2#128)) = some (pending .dec 1#128 2#128) := by decide +kernel
theorem test_clmul_issues : after (exec .clmul (idle 1#128 2#128)) = some (pending .clmul 1#128 2#128) := by decide +kernel
theorem test_enc_completes :
    completes .enc 0x0102030405060708090a0b0c0d0e0f10#128 5#128 = some (0x08f070b030d0509010e060a020c04080#128, 0#128) := by
  decide +kernel
theorem test_dec_completes :
    completes .dec 0xe0000000000000000000000000000870#128 5#128 = some (0x0e100000000000000000000000000007#128, 0#128) := by
  decide +kernel
theorem test_gmul_completes :
    completes .gmul 0x74d42c539a5f3211dc3451f72bd29766#128 0x1e7f4d8e9d4314cf49c56d06735b11c0#128 =
      some (0xed7bcaca160da13411460e8962e3747a#128, 0#128) := by decide +kernel
theorem test_clmul_completes :
    completes .clmul 0x0123456789abcdeffedcba9876543210#128 0x00112233445566778899aabbccddeeff#128 =
      some (0x78786b497034630558cf75c02cff01f0#128, 0x00001331084c1b7d20b70db854877988#128) := by decide +kernel
theorem test_red_completes_bit_127 :
    completes .red (BitVec.allOnes 128) 7#128 = some (0x3f8e#128, 0#128) := by decide +kernel
theorem test_T20_reset_discards :
    after (step { pending .gmul 3#128 3#128 with schedule := [.reset], reads := [9#128] }) =
      some { State.reset with reads := [9#128] } := by decide +kernel

/-! ## Whole words on the port -/

theorem test_step_runs_placed_transaction :
    after (step (State.reset.withFetchWord 136 0x1000000000000000000000000000000001)) = some (idle 1#128 0#128) := by
  decide +kernel
theorem test_step_runs_placed_command :
    after (step ((idle 3#128 3#128).withFetchWord 128 0x3)) = some (pending .gmul 3#128 3#128) := by decide +kernel
theorem test_P1_lines :
    (op1Lines .enc 1#128 1).map HostLine.txn =
      [0x1000000000000000000000000000000001#133, 0x1400000000000000000000000000000001#133,
       0x0500000000000000000000000000000000#133] := by decide +kernel

/-! ## Witnesses: encoding and steps -/

theorem witness_DecodeOfEncode :
    ∀ i ∈ [Instr.regwrRsv67 6#4 1#128, .regwrRsv67 7#4 1#128, .regwrRsv815 8#4 1#128, .regwrRsv815 15#4 1#128, .red],
      i.wf = true := by decide +kernel

theorem witness_EncodeOfDecodedTransaction :
    (writeTxn 4#4 3#128).getLsbD 132 = true ∧ (readTxn 15#4).getLsbD 132 = false := by decide +kernel

theorem witness_StepRunsDecodedTransaction :
    (State.reset.present (writeTxn 0#4 1#128)).schedule = .host (writeTxn 0#4 1#128) :: [] := by decide +kernel

theorem witness_StepRunsDecodedCommand :
    (State.reset.present (writeTxn 4#4 5#128)).schedule = .host (writeTxn 4#4 5#128) :: [] ∧
      decodeCmdw 5#128 = .ok .red ∧ decodeCmdw 0#128 = .ok .nop := by decide +kernel

theorem witness_PlacedTableWordRunsNext :
    decodeTableWord 136 0x1f00000000000000000000000000000001 = some (.regwrRsv815 15#4 1#128) ∧
      decodeTableWord 128 0x5 = some .red := by decide +kernel

/-- A word of each clause of the decoding procedure: WE, ADDR, OP and RSV as the clauses read them. -/
theorem witness_DecodingProcedure :
    (readTxn 5#4).getLsbD 132 = false ∧
    [0#4, 1#4, 2#4, 3#4, 4#4, 5#4, 6#4, 15#4].map (fun a => ((writeTxn a 6#128).getLsbD 132,
      ((writeTxn a 6#128).extractLsb' 128 4).toNat)) =
      [(true, 0), (true, 1), (true, 2), (true, 3), (true, 4), (true, 5), (true, 6), (true, 15)] ∧
    [0x10#128, 0#128, 1#128, 2#128, 3#128, 4#128, 5#128, 6#128, 15#128].map (fun c =>
      ((((writeTxn 4#4 c).extractLsb' 0 128).extractLsb' 4 124).toNat,
        (((writeTxn 4#4 c).extractLsb' 0 128).extractLsb' 0 4).toNat)) =
      [(1, 0), (0, 0), (0, 1), (0, 2), (0, 3), (0, 4), (0, 5), (0, 6), (0, 15)] := by decide +kernel

theorem witness_DecodingProcedure_states :
    (pending .red 1#128 0#128).busy = true ∧ State.reset.busy = false := by decide

theorem witness_CompletionWritesResult :
    ({ pending .gmul 3#128 3#128 with schedule := [.core] } : State).schedule = .core :: [] ∧
      ({ pending .gmul 3#128 3#128 with schedule := [.core] } : State).pend = some ⟨.gmul, 3#128, 3#128⟩ ∧
      ({ State.reset with schedule := [.core] } : State).pend = none := by decide +kernel

theorem witness_ResultDependsOnLatchOnly :
    (pending .red 1#128 0#128).pend = some ⟨.red, 1#128, 0#128⟩ ∧
      ({ pending .red 1#128 0#128 with opa := 7#128, res := 9#128 } : State).pend = some ⟨.red, 1#128, 0#128⟩ := by
  decide +kernel

theorem witness_HostStopsThenBlockSettles :
    (pending .red 1#128 0#128).schedule = [] ∧ (pending .red 1#128 0#128).pend = some ⟨.red, 1#128, 0#128⟩ ∧
      State.reset.schedule = [] ∧ State.reset.pend = none := by decide +kernel

theorem witness_ResetClearsEverything :
    ({ pending .red 1#128 0#128 with schedule := [.reset] } : State).schedule = .reset :: [] := by decide +kernel

theorem witness_ResetDiscardsPendingCommand :
    ({ pending .red 1#128 0#128 with schedule := [.reset, .core] } : State).schedule = .reset :: .core :: [] ∧
      (pending .red 1#128 0#128).pend = some ⟨.red, 1#128, 0#128⟩ := by decide +kernel

/-! ## Witnesses: transactions and commands -/

theorem witness_RegisterReads : 6 ≤ (6#4).toNat ∧ 6 ≤ (15#4).toNat := by decide +kernel

theorem witness_StatusRegister : 3 ≤ 3 ∧ (2#128).getLsbD 1 = true ∧ (4#128).getLsbD 2 = true ∧
    (0#128).getLsbD 1 = false := by decide +kernel

theorem witness_IgnoredWrites : ∀ n ∈ [2#4, 3#4, 6#4, 15#4], n = 2#4 ∨ n = 3#4 ∨ 6 ≤ n.toNat := by decide +kernel

theorem witness_CommandWrite :
    (pending .red 1#128 0#128).busy = true ∧ State.reset.busy = false ∧
      (0x10#128).extractLsb' 4 124 ≠ 0#124 ∧ 6 ≤ ((6#128).extractLsb' 0 4).toNat ∧
      [Op.enc, .dec, .gmul, .clmul, .red].map Op.word = [1#128, 2#128, 3#128, 4#128, 5#128] := by decide +kernel

theorem witness_CommandsWhileIdle : (idle 3#128 3#128).busy = false := by decide +kernel

theorem witness_CommandsOverrunWhileBusy : (pending .red 1#128 0#128).busy = true := by decide +kernel

/-- A step of each clause: ILL set, OVR set, ILL cleared by a write, OVR cleared by a write and by a reset. -/
theorem witness_ErrorFlagsAreSticky :
    (after (step (State.reset.withFetchWord 128 6))).map State.ill = some true ∧
    (after (step ((pending .red 1#128 0#128).withFetchWord 128 3))).map State.ovr = some true ∧
    (after (step (({ State.reset with ill := true, ovr := true } : State).withFetchWord 136
      0x1500000000000000000000000000000006))).map (fun t => (t.ill, t.ovr)) = some (false, false) ∧
    (after (step { State.reset with ill := true, ovr := true, schedule := [.reset] })).map
      (fun t => (t.ill, t.ovr)) = some (false, false) := by decide +kernel

theorem witness_RepeatedTransactions :
    ∀ i ∈ [Instr.regwrOpa 5#128, .regwrOpb 5#128, .regwrStatus 6#128],
      (after (exec i { State.reset with ill := true })).isSome = true := by decide +kernel

theorem witness_CodecCommands : (idle 0x80000000000000000000000000000000#128 0#128).busy = false ∧ 127 < 128 := by
  decide +kernel

theorem witness_GmulCommand : (idle 3#128 3#128).busy = false := by decide +kernel

theorem witness_ClmulCommand : (idle 3#128 3#128).busy = false := by decide +kernel

theorem witness_RedCommand : (idle 1#128 0#128).busy = false := by decide +kernel

/-! ## Witnesses: arithmetic -/

theorem witness_PmodIsRemainder : fieldPolynomial ∣ polyOf 5#128 - polyOf 5#128 := by
  rw [sub_self]; exact dvd_zero _

theorem witness_ReductionForms : 7 ≤ 7 ∧ 0 < 128 ∧ 127 < 128 ∧ 120 ≤ 120 := by decide

theorem witness_ReductionOfBit127 :
    (0x80000000000000000000000000000000#128).getLsbD 127 = true ∧
      (0x7fffffffffffffffffffffffffffffff#128).getLsbD 127 = false := by decide +kernel

theorem witness_SquaringSpreadsBits : 0 < 128 ∧ 127 < 128 := by decide

theorem witness_FieldMulInverses : 0x2#128 ≠ 0#128 := by decide +kernel

theorem witness_CodecIsFullBitReversal : 127 < 128 ∧ 15 < 16 := by decide

theorem witness_ExternalBitConvention : 15 < 16 ∧ 7 < 8 ∧ 127 < 128 := by decide

/-! ## Witnesses: invariants and interleavings -/

theorem witness_StepKeepsInvariant :
    (pending .clmul 3#128 3#128).Inv ∧ (after (step (pending .clmul 3#128 3#128))).isSome = true := by decide +kernel

/-- Every state a run from reset reaches meets `Reach`: here one that has just completed a CLMUL. -/
theorem witness_ReachableStates : ∃ s, Reach (some .clmul) s ∧ s.resh = 0x40000000000000000000000000000000#128 := by
  let a : Word := 0x80000000000000000000000000000000#128
  let s₀ : State := { State.reset with
    schedule := [.host (writeTxn 0#4 a), .host (writeTxn 1#4 a), .host (writeTxn 4#4 4#128), .core] }
  let s₁ : State := { s₀ with opa := a, schedule := s₀.schedule.drop 1 }
  let s₂ : State := { s₁ with opb := a, schedule := s₀.schedule.drop 2 }
  let s₃ : State := { s₂ with pend := some ⟨.clmul, a, a⟩, busy := true, schedule := [.core] }
  let s₄ : State := { s₂ with res := 0#128, resh := 0x40000000000000000000000000000000#128, schedule := [] }
  have e : ∀ {s t : State}, after (step s) = some t → step s = .next t := by
    intro s t h
    cases hs : step s with
    | next u => rw [hs] at h; exact congrArg Host.Outcome.next (Option.some.inj h)
    | fault r => nomatch r
    | refused r => rw [hs] at h; cases h
  have r₀ : Reach none s₀ := .start _
  have r₁ : Reach none s₁ := .step r₀ (e (by decide +kernel))
  have r₂ : Reach none s₂ := .step r₁ (e (by decide +kernel))
  have r₃ : Reach none s₃ := .step r₂ (e (by decide +kernel))
  have r₄ : Reach (some .clmul) s₄ := .step r₃ (e (by decide +kernel))
  exact ⟨s₄, r₄, rfl⟩

theorem witness_ResultsChangeOnlyAtCompletion :
    (after (step { pending .red 1#128 0#128 with schedule := [.core] })).map State.res = some 0x87#128 ∧
      (after (step { State.reset with res := 1#128, resh := 1#128, schedule := [.reset] })).map
        (fun t => (t.res, t.resh)) = some (0#128, 0#128) := by decide +kernel

theorem witness_OperandsChangeOnlyByHostWrite :
    (after (step (State.reset.present (writeTxn 0#4 1#128)))).map State.opa = some 1#128 ∧
      (after (step (State.reset.present (writeTxn 1#4 1#128)))).map State.opb = some 1#128 := by decide +kernel

theorem witness_BusyChangesOnlyByIssueAndCompletion :
    (after (step (State.reset.present (writeTxn 4#4 5#128)))).map State.busy = some true ∧
      (after (step (pending .red 1#128 0#128))).map State.busy = some false := by decide +kernel

theorem witness_PendingCommandIsUndisturbed :
    (pending .red 1#128 0#128).Inv ∧ (pending .red 1#128 0#128).pend = some ⟨.red, 1#128, 0#128⟩ ∧
      (after (step ((pending .red 1#128 0#128).present (writeTxn 0#4 7#128)))).isSome = true := by decide +kernel

theorem witness_ResultsFeedNoCommand :
    Instr.gmul ≠ .regrd 2#4 ∧ Instr.gmul ≠ .regrd 3#4 ∧ (after (exec .gmul (idle 3#128 3#128))).isSome = true ∧
      (pending .red 1#128 0#128).pend ≠ none := by decide +kernel

theorem witness_EarlyReadSeesOldOrNew : (pending .gmul 3#128 3#128).pend = some ⟨.gmul, 3#128, 3#128⟩ := by
  decide +kernel

theorem witness_BackToBackCommands : (idle 3#128 3#128).busy = false := by decide +kernel

/-- Four steps of which none resets or issues: a write of OPA, a CMD write of GMUL dropped as an overrun, the completion,
and a CMD write of an illegal word. A GMUL that follows would issue, and a reset would end it too. -/
theorem witness_ResultHeldUntilNextCommand :
    let s : State := { pending .gmul 3#128 3#128 with
      schedule := [.host (writeTxn 0#4 0#128), .host (writeTxn 4#4 3#128), .core, .host (writeTxn 4#4 6#128),
        .host (writeTxn 4#4 3#128)] }
    s.pend = some ⟨.gmul, 3#128, 3#128⟩ ∧ s.busy = true ∧
    (∀ (j : Nat) (u : State), j < 4 → runSteps j s = .next u → u.endsResult = false) ∧
    (after (runSteps 4 s)).map (fun t => (t.res, t.ovr, t.endsResult)) = some (5#128, true, true) ∧
    ({ s with schedule := [.reset] } : State).endsResult = true := by
  refine ⟨by decide +kernel, by decide +kernel, ?_, by decide +kernel, by decide +kernel⟩
  intro j u hj hu
  have all : ∀ j < 4, (after (runSteps j { pending .gmul 3#128 3#128 with
      schedule := [.host (writeTxn 0#4 0#128), .host (writeTxn 4#4 3#128), .core, .host (writeTxn 4#4 6#128),
        .host (writeTxn 4#4 3#128)] })).map State.endsResult = some false := by decide +kernel
  have h := all j hj
  rw [hu] at h
  exact Option.some.inj h

/-- The hypotheses of the discipline, and a short run in which the STATUS read returns BUSY = 0. -/
theorem witness_HostDiscipline :
    State.reset.Inv ∧ State.reset.busy = false ∧
    [Slot.host (readTxn 5#4), .core, .host (writeTxn 0#4 0#128)].all Slot.writesNoCommand = true ∧
    (after (runSteps 2 { pending .gmul 3#128 3#128 with schedule := [.core, .host (readTxn 5#4)] })).map
      (fun t => t.reads.map fun w => w.getLsbD 0) = some [false] := by decide +kernel

/-- A step of CLMUL's completion, after which RESH need not be 0, and one of RED's, after which it is. -/
theorem witness_StepKeepsResultHistory :
    (pending .clmul 3#128 3#128).InvAfter none ∧
    lastCompleted none { pending .clmul 3#128 3#128 with schedule := [.core] } = some .clmul ∧
    ({ pending .red 1#128 0#128 with resh := 1#128 } : State).InvAfter (some .clmul) ∧
    lastCompleted (some .clmul) { pending .red 1#128 0#128 with schedule := [.core] } = some .red ∧
    (after (step { pending .red 1#128 0#128 with resh := 1#128, schedule := [.core] })).map State.resh = some 0#128 := by
  decide +kernel

end Sys2Proof.Tests
end

section
/-! Proofs of the family 10_state. RESH as a command leaves it, the history of RESH step by step, and R29 in every state
that a run from reset reaches. -/

namespace Sys2Proof.Machine

/-! ## The high half of a product, and the result's RESH -/

/-- The degree bound (42_multiplier.md R92): the first `i` bits of `a` give copies of `b` shifted by at most `i - 1`. -/
theorem clmulUpTo_getLsbD_of_le {m n : Nat} (a : BitVec m) (b : BitVec n) {i k : Nat} (h : n + i ≤ k + 1) :
    (clmulUpTo a b i).getLsbD k = false := by
  induction i with
  | zero => simp [clmulUpTo]
  | succ i ih =>
    have shifted : b.getLsbD (k - i) = false := BitVec.getLsbD_of_ge b _ (by omega)
    rw [clmulUpTo_succ, BitVec.getLsbD_xor, ih (by omega)]
    cases a.getLsbD i <;> simp [shifted]

/-- Bit 255 of a product is 0 (R85, R92). -/
theorem high128_product_getLsbD_127 (a b : Word) : (high128 (product a b)).getLsbD 127 = false := by
  have top : (product a b).getLsbD 255 = false := clmulUpTo_getLsbD_of_le a b (by omega)
  simpa [high128] using top

theorem result_resh_getLsbD_127 (op : Op) (a b : Word) : (result op a b).2.getLsbD 127 = false := by
  cases op with
  | clmul => exact high128_product_getLsbD_127 a b
  | enc | dec | gmul | red => exact BitVec.getLsbD_zero

theorem result_resh_of_ne_clmul {op : Op} (a b : Word) (h : op ≠ .clmul) : (result op a b).2 = 0#128 := by
  cases op with
  | clmul => exact absurd rfl h
  | enc | dec | gmul | red => rfl

/-! ## STATUS -/

/-- STATUS[127:3] = 0 (10_state.md R19). -/
theorem State.status_getLsbD_of_le (s : State) {i : Nat} (h : 3 ≤ i) : s.status.getLsbD i = false := by
  rw [State.status, BitVec.getLsbD_setWidth, BitVec.getLsbD_of_ge _ i h, Bool.and_false]

/-! ## What the block's events do to BUSY, the latch and RESH -/

/-- No instruction writes RESH, and one that changes BUSY or the latch issues a command (R15, R20). -/
theorem exec_keeps_latch_or_issues {i : Instr} {s t : State} (h : exec i s = .next t) :
    t.resh = s.resh ∧
      ((t.busy = s.busy ∧ t.pend = s.pend) ∨ ∃ op : Op, t.busy = true ∧ t.pend = some ⟨op, s.opa, s.opb⟩) := by
  obtain ⟨n, -, rfl⟩ | ⟨w, -, rfl⟩ | ⟨w, -, rfl⟩ | ⟨w, -, rfl⟩ | ⟨-, rfl⟩ | ⟨-, -, rfl⟩ | ⟨-, -, rfl⟩ | ⟨-, -, rfl⟩ |
    ⟨-, op, -, rfl⟩ := exec_cases h
  iterate 8 · exact ⟨rfl, .inl ⟨rfl, rfl⟩⟩
  · exact ⟨rfl, .inr ⟨op, rfl, rfl⟩⟩

theorem exec_keeps_invAfter {i : Instr} {s t : State} {done : Option Op} (hs : s.InvAfter done)
    (h : exec i s = .next t) : t.InvAfter done := by
  obtain ⟨⟨latch, top⟩, history⟩ := hs
  obtain ⟨resh, ⟨busy, pend⟩ | ⟨op, busy, pend⟩⟩ := exec_keeps_latch_or_issues h
  · exact ⟨⟨by rw [busy, pend, latch], by rw [resh, top]⟩, by rwa [resh]⟩
  · exact ⟨⟨by rw [busy, pend, Option.isSome_some], by rw [resh, top]⟩, by rwa [resh]⟩

/-- A completion meets the invariant with its own operation as history, from any state (R73, R74). -/
theorem State.complete_invAfter {s : State} {p : Pending} (h : s.pend = some p) : s.complete.InvAfter (some p.op) := by
  rw [State.complete_some h]
  refine ⟨⟨rfl, result_resh_getLsbD_127 p.op p.a p.b⟩, fun other => ?_⟩
  exact result_resh_of_ne_clmul p.a p.b fun hop => other (congrArg some hop)

/-- The reset event meets the invariant with no history, from any state (R27, R115). -/
theorem State.applyReset_invAfter (s : State) : s.applyReset.InvAfter none :=
  ⟨⟨rfl, BitVec.getLsbD_zero⟩, fun _ => rfl⟩

/-! ## Every step, and every reachable state -/

/-- The induction step of R29, with the history of RESH. -/
theorem step_keeps_invAfter {done : Option Op} {s t : State} (hs : s.InvAfter done) (h : step s = .next t) :
    t.InvAfter (lastCompleted done s) := by
  have dropped : s.dropSlot.InvAfter done := hs
  obtain ⟨hn, rfl⟩ | ⟨w, hn, hx⟩ | ⟨hn, rfl⟩ | ⟨hn, rfl⟩ := step_cases h
  · rwa [lastCompleted_idle done hn]
  · rw [lastCompleted_host done hn]
    exact exec_keeps_invAfter dropped hx
  · cases hp : s.pend with
    | none => rwa [lastCompleted_core_none done hn hp, State.complete_none (s := s.dropSlot) hp]
    | some p =>
      rw [lastCompleted_core_some done hn hp]
      exact State.complete_invAfter (s := s.dropSlot) hp
  · rw [lastCompleted_reset done hn]
    exact State.applyReset_invAfter s.dropSlot

theorem reset_invAfter (slots : List Slot) : ({ State.reset with schedule := slots } : State).InvAfter none :=
  State.applyReset_invAfter { State.reset with schedule := slots }

theorem Reach.invAfter {done : Option Op} {s : State} (h : Reach done s) : s.InvAfter done := by
  induction h with
  | start slots => exact reset_invAfter slots
  | step _ moves ih => exact step_keeps_invAfter ih moves

/-- Settles O49: the invariant with its history holds by induction along the run (`Reach.invAfter`), and STATUS[127:3] = 0
in any state. -/
theorem reachableStates : Obligations.ReachableStates := by
  intro done s reached
  obtain ⟨⟨latch, top⟩, history⟩ := reached.invAfter
  refine ⟨?_, history, top, fun i hi => s.status_getLsbD_of_le hi⟩
  rw [latch, Option.isSome_iff_ne_none]

end Sys2Proof.Machine
end

section
/-! Proofs of the family 20_memory. The bytes and bits of a packed external element, and what a second transaction like the
first one does. -/

namespace Sys2Proof.Machine

/-! ## The bits of a packed element (20_memory.md R33, R34) -/

/-- One byte appended: its bits are the lowest eight, and the word's own bits move up by eight. -/
theorem appendByte_getLsbD (w : Word) (e : BitVec 8) {i : Nat} (h : i < 128) :
    ((w <<< 8) ||| e.setWidth 128).getLsbD i = if i < 8 then e.getLsbD i else w.getLsbD (i - 8) := by
  by_cases low : i < 8
  · simp [h, low]
  · rw [BitVec.getLsbD_or, BitVec.getLsbD_shiftLeft, BitVec.getLsbD_setWidth, BitVec.getLsbD_of_ge e i (by omega)]
    simp [h, low]

/-- Packing moves the bits that are already there above the packed bytes. -/
theorem packBytesOnto_getLsbD_of_le (w : Word) (es : List (BitVec 8)) {i : Nat} (above : 8 * es.length ≤ i)
    (h : i < 128) : (packBytesOnto w es).getLsbD i = w.getLsbD (i - 8 * es.length) := by
  induction es generalizing w with
  | nil => rfl
  | cons e es ih =>
    rw [List.length_cons] at above ⊢
    rw [packBytesOnto, ih _ (by omega), appendByte_getLsbD w e (by omega), if_neg (by omega)]
    rfl

/-- Byte `k` of the packed bytes has `es.length - 1 - k` bytes below it. -/
theorem packBytesOnto_getLsbD (w : Word) (es : List (BitVec 8)) {k j : Nat} (fits : 8 * es.length ≤ 128)
    (hk : k < es.length) (hj : j < 8) :
    (packBytesOnto w es).getLsbD (8 * (es.length - 1 - k) + j) = es[k].getLsbD j := by
  induction es generalizing w k with
  | nil => exact absurd hk (Nat.not_lt_zero k)
  | cons e es ih =>
    rw [List.length_cons] at fits hk
    rw [packBytesOnto]
    cases k with
    | zero =>
      have place : 8 * ((e :: es).length - 1 - 0) + j = 8 * es.length + j := rfl
      rw [place, packBytesOnto_getLsbD_of_le _ es (by omega) (by omega), Nat.add_sub_cancel_left,
        appendByte_getLsbD w e (by omega), if_pos hj, List.getElem_cons_zero]
    | succ k =>
      have place : (e :: es).length - 1 - (k + 1) = es.length - 1 - k := by rw [List.length_cons]; omega
      rw [place, ih _ (by omega) (by omega), List.getElem_cons_succ]

theorem packExternal_getLsbD (bytes : Vector (BitVec 8) 16) {k j : Nat} (hk : k < 16) (hj : j < 8) :
    (packExternal bytes).getLsbD (8 * (15 - k) + j) = bytes[k].getLsbD j := by
  have bits := packBytesOnto_getLsbD 0#128 bytes.toList (k := k) (j := j) (by simp) (by simpa using hk) hj
  simpa [packExternal] using bits

theorem externalByte_packExternal (bytes : Vector (BitVec 8) 16) {k : Nat} (hk : k < 16) :
    externalByte (packExternal bytes) k = bytes[k] := by
  refine BitVec.eq_of_getLsbD_eq fun j hj => ?_
  have place : 120 - 8 * k + j = 8 * (15 - k) + j := by omega
  rw [externalByte_getLsbD _ k j hj, place, packExternal_getLsbD bytes hk hj]

theorem encodeElement_getLsbD (w : Word) {i : Nat} (h : i < 128) : (encodeElement w).getLsbD i = w.getLsbD (127 - i) :=
  bitrev_getLsbD w i h

/-- Settles O46: the packing puts byte E[k] below its `k` predecessors (`packExternal_getLsbD`), and the codec sends bit
`8k + 7 - j` to the place of its bit `j`. -/
theorem externalBitConvention : Obligations.ExternalBitConvention := by
  refine ⟨fun bytes k j hk hj => ⟨externalByte_packExternal bytes hk, packExternal_getLsbD bytes hk hj, ?_⟩,
    fun w b hb => ?_⟩
  · have place : 127 - (8 * k + 7 - j) = 8 * (15 - k) + j := by omega
    rw [encodeElement_getLsbD _ (by omega), place, packExternal_getLsbD bytes hk hj]
  · have place : 127 - (127 - b) = b := by omega
    rw [encodeElement_getLsbD w (by omega), place]

/-! ## Repeated transactions (20_memory.md R39) -/

/-- The record of the words read is no register: no read returns it. -/
@[simp] theorem State.readReg_respond (s : State) (v : Word) (n : RegNum) : (s.respond v).readReg n = s.readReg n := rfl

/-- A flag that a STATUS write leaves is one that the same write leaves again. -/
@[simp] theorem State.clearFlags_clearFlags (s : State) (w : Word) :
    (s.clearFlags w).clearFlags w = s.clearFlags w := by
  simp [State.clearFlags]

theorem exec_of_ignored {i : Instr} (h : Ignored i) (s : State) : exec i s = .next s := by
  cases i with
  | regwrRes _ | regwrResh _ | regwrRsv67 _ _ | regwrRsv815 _ _ => rfl
  | _ => exact h.elim

/-- The register numbers a host write has no effect on: RES, RESH and the reserved ones (R41, R67). -/
theorem decodeWrite_ignored {n : RegNum} (w : Word) (h : n = 2#4 ∨ n = 3#4 ∨ 6 ≤ n.toNat) :
    Ignored (decodeWrite n w) := by
  obtain rfl | rfl | reserved := h
  · trivial
  · trivial
  · unfold decodeWrite
    split
    iterate 6 · omega
    iterate 3 · trivial

theorem State.flagOverrun_ne {s : State} (h : s.ovr = false) : s.flagOverrun ≠ s := by
  intro same
  have ovr : s.flagOverrun.ovr = s.ovr := congrArg State.ovr same
  rw [State.flagOverrun_ovr, h] at ovr
  cases ovr

/-- The first write of a command word issues it, the second is an overrun (R69, R70). -/
theorem commandWrite_not_idempotent {s : State} (op : Op) (idle : s.busy = false) (clear : s.ovr = false) :
    ∃ t u : State, exec (.regwrCmd op.word) s = .next t ∧ exec (.regwrCmd op.word) t = .next u ∧ u ≠ t :=
  ⟨s.issue op, (s.issue op).flagOverrun, execRegwrCmd_issue idle (verdict_word op), execRegwrCmd_busy _ rfl,
    State.flagOverrun_ne clear⟩

/-- Settles O25: reads and ignored writes leave every register, a register write overwrites its own, clearing flags is
idempotent, and GMUL written twice from reset issues and then overruns. -/
theorem repeatedTransactions : Obligations.RepeatedTransactions := by
  refine ⟨fun s n => ⟨rfl, s.readReg_respond _⟩, fun s t w i hi h => ?_, fun s n w hn => ?_,
    State.reset, commandWrite_not_idempotent .gmul rfl rfl⟩
  · simp only [List.mem_cons, List.not_mem_nil, or_false] at hi
    obtain rfl | rfl | rfl := hi
    · cases h; rfl
    · cases h; rfl
    · cases h; exact congrArg Host.Outcome.next (s.clearFlags_clearFlags w)
  · rw [decodeTxn_writeTxn]
    exact exec_of_ignored (decodeWrite_ignored w hn) s

end Sys2Proof.Machine
end

section
/-! Proofs of the family 30_encoding. What `verdict` answers, said once by the word itself; what a write's register
number decodes to; and the decoding procedure of R61 from the two. -/

namespace Sys2Proof.Machine

/-! ## Command words (30_encoding.md R50 to R53) -/

/-- With RSV = 0 a command word is its OP, zero-extended. -/
theorem eq_ofNat_cmdOp_of_cmdRsv {c : Word} (rsv : cmdRsv c = 0#124) : c = BitVec.ofNat 128 (cmdOp c).toNat := by
  have high : c.toNat >>> 4 % 2 ^ 124 = 0 := by simpa [cmdRsv] using congrArg BitVec.toNat rsv
  have low : (cmdOp c).toNat = c.toNat % 16 := by simp [cmdOp]
  rw [Nat.shiftRight_eq_div_pow] at high
  apply BitVec.eq_of_toNat_eq
  rw [BitVec.toNat_ofNat, low]
  omega

theorem verdict_zero : verdict 0#128 = .nop := by decide

/-- Every answer of the verdict, with the words that it is given for. -/
theorem verdict_cases (c : Word) :
    (verdict c = .illegal ∧ (cmdRsv c ≠ 0#124 ∨ 6 ≤ (cmdOp c).toNat)) ∨
    (verdict c = .nop ∧ c = 0#128) ∨
    (∃ op : Op, verdict c = .issue op ∧ c = op.word) := by
  by_cases rsv : cmdRsv c = 0#124
  · have word := eq_ofNat_cmdOp_of_cmdRsv rsv
    by_cases big : 6 ≤ (cmdOp c).toNat
    · refine .inl ⟨?_, .inr big⟩
      unfold verdict
      rw [if_neg (by simp [rsv])]
      split
      iterate 6 · omega
      rfl
    · obtain h | h | h | h | h | h : (cmdOp c).toNat = 0 ∨ (cmdOp c).toNat = 1 ∨ (cmdOp c).toNat = 2 ∨
        (cmdOp c).toNat = 3 ∨ (cmdOp c).toNat = 4 ∨ (cmdOp c).toNat = 5 := by omega
      all_goals rw [h] at word; subst word
      · exact .inr (.inl ⟨verdict_zero, rfl⟩)
      · exact .inr (.inr ⟨.enc, verdict_word .enc, rfl⟩)
      · exact .inr (.inr ⟨.dec, verdict_word .dec, rfl⟩)
      · exact .inr (.inr ⟨.gmul, verdict_word .gmul, rfl⟩)
      · exact .inr (.inr ⟨.clmul, verdict_word .clmul, rfl⟩)
      · exact .inr (.inr ⟨.red, verdict_word .red, rfl⟩)
  · exact .inl ⟨by simp [verdict, rsv], .inl rsv⟩

theorem verdict_eq_illegal_iff {c : Word} : verdict c = .illegal ↔ cmdRsv c ≠ 0#124 ∨ 6 ≤ (cmdOp c).toNat := by
  obtain ⟨hv, bad⟩ | ⟨hv, rfl⟩ | ⟨op, hv, rfl⟩ := verdict_cases c
  · exact iff_of_true hv bad
  · exact iff_of_false (by simp [hv]) (by decide)
  · exact iff_of_false (by simp [hv]) (by cases op <;> decide)

@[simp] theorem Op.encode_instr (op : Op) : encode op.instr = .cmdw op.word := by cases op <;> rfl

/-- A legal command word is the word of its instruction. -/
theorem encode_of_decodeCmdw {c : Word} {i : Instr} (h : decodeCmdw c = .ok i) : encode i = .cmdw c := by
  obtain ⟨hv, -⟩ | ⟨hv, rfl⟩ | ⟨op, hv, rfl⟩ := verdict_cases c
  · rw [decodeCmdw, hv] at h; cases h
  · rw [decodeCmdw, hv] at h; cases h; rfl
  · rw [decodeCmdw, hv] at h; cases h; exact Op.encode_instr op

/-- The word of a command decodes to it and no other word does (R51). -/
theorem decodeCmdw_eq_ok_iff {c word : Word} {i : Instr} (h : encode i = .cmdw word) :
    decodeCmdw c = .ok i ↔ c = word := by
  refine ⟨fun ok => ?_, fun same => ?_⟩
  · exact Code.cmdw.inj ((encode_of_decodeCmdw ok).symm.trans h)
  · subst same
    cases i with
    | nop | enc | dec | gmul | clmul | red => cases h; rfl
    | _ => cases h

theorem decodeCmdw_ok_iff {c : Word} :
    (∃ i, decodeCmdw c = .ok i) ↔ cmdRsv c = 0#124 ∧ (cmdOp c).toNat ≤ 5 := by
  have legal : (∃ i, decodeCmdw c = .ok i) ↔ ¬ verdict c = .illegal := by
    rw [decodeCmdw]
    cases verdict c <;> simp
  rw [legal, verdict_eq_illegal_iff, not_or, not_not]
  exact and_congr_right' (by omega)

/-- Settles O4: the legal words are those without the verdict illegal, and a mnemonic's one word is its encoding
(`decodeCmdw_eq_ok_iff`). -/
theorem commandWordLegality : Obligations.CommandWordLegality := fun _ =>
  ⟨decodeCmdw_ok_iff, decodeCmdw_eq_ok_iff rfl, decodeCmdw_eq_ok_iff rfl, decodeCmdw_eq_ok_iff rfl,
    decodeCmdw_eq_ok_iff rfl, decodeCmdw_eq_ok_iff rfl, decodeCmdw_eq_ok_iff rfl⟩

/-! ## The decoding procedure (30_encoding.md R61) -/

theorem txnWe_eq_getLsbD (w : TxnWord) : txnWe w = w.getLsbD 132 := by
  rw [txnWe, BitVec.getLsbD_eq_extractLsb']

theorem decodeTxn_of_read {w : TxnWord} (we : w.getLsbD 132 = false) : decodeTxn w = .regrd (txnAddr w) := by
  rw [decodeTxn, txnWe_eq_getLsbD, we]; rfl

theorem decodeTxn_of_write {w : TxnWord} (we : w.getLsbD 132 = true) :
    decodeTxn w = decodeWrite (txnAddr w) (txnData w) := by
  rw [decodeTxn, txnWe_eq_getLsbD, we]; rfl

theorem decodeTxn_of_write_to {w : TxnWord} (n : RegNum) (we : w.getLsbD 132 = true)
    (addr : (txnAddr w).toNat = n.toNat) : decodeTxn w = decodeWrite n (txnData w) := by
  rw [decodeTxn_of_write we, BitVec.eq_of_toNat_eq addr]

/-- A write to CMD runs as the CMD write of its DATA (R69). -/
theorem exec_decodeTxn_of_cmd {w : TxnWord} (s : State) (we : w.getLsbD 132 = true) (addr : (txnAddr w).toNat = 4) :
    exec (decodeTxn w) s = execRegwrCmd (txnData w) s := by
  rw [decodeTxn_of_write_to 4#4 we addr]; rfl

/-- Settles O10: the row of a write is that of its register number (`decodeTxn_of_write_to`), and what a CMD write does
while idle is the verdict on its word. -/
theorem decodingProcedure : Obligations.DecodingProcedure := by
  intro s w addr data op
  refine ⟨decodeTxn_of_read, fun we h => decodeTxn_of_write_to 0#4 we h, fun we h => decodeTxn_of_write_to 1#4 we h,
    fun we h => decodeTxn_of_write_to 5#4 we h, fun we h busy => ?_, fun we h idle rsv => ?_, fun we h idle rsv => ?_,
    fun we h => ?_⟩
  · rw [exec_decodeTxn_of_cmd s we h]
    exact execRegwrCmd_busy _ busy
  · rw [exec_decodeTxn_of_cmd s we h]
    exact execRegwrCmd_illegal idle (verdict_eq_illegal_iff.mpr (.inl rsv))
  · rw [exec_decodeTxn_of_cmd s we h]
    have word : ∀ {k}, op = k → data = BitVec.ofNat 128 k := fun h => h ▸ eq_ofNat_cmdOp_of_cmdRsv rsv
    have issue : ∀ o : Op, data = o.word → execRegwrCmd data s = .next (s.issue o) :=
      fun o h => execRegwrCmd_issue idle (h ▸ verdict_word o)
    exact ⟨fun h => execRegwrCmd_nop idle ((congrArg verdict (word h)).trans verdict_zero),
      fun h => issue .enc (word h), fun h => issue .dec (word h), fun h => issue .gmul (word h),
      fun h => issue .clmul (word h), fun h => issue .red (word h),
      fun h => execRegwrCmd_illegal idle (verdict_eq_illegal_iff.mpr (.inr h))⟩
  · rw [decodeTxn_of_write we]
    refine exec_of_ignored (decodeWrite_ignored _ ?_) s
    exact h.imp BitVec.eq_of_toNat_eq (Or.imp_left BitVec.eq_of_toNat_eq)

/-! ## The lines of the host notation (30_encoding.md R58) -/

/-- Settles O6: a line's fields are those of the write or read transaction that it is. -/
theorem hostLinesEncode : Obligations.HostLinesEncode :=
  ⟨fun w r => ⟨txnWe_writeTxn r.number w, txnAddr_writeTxn r.number w, txnData_writeTxn r.number w⟩,
    fun r => ⟨txnWe_readTxn r.number, txnAddr_readTxn r.number⟩, rfl, fun _ => rfl, rfl, rfl, rfl, rfl, rfl, rfl⟩

end Sys2Proof.Machine
end

section
/-! Proofs of the family 40_command_interface. What the port answers to a read of each kind of register number, the bits
of STATUS, and what a write does from every state. -/

namespace Sys2Proof.Machine

/-! ## Reads (40_command_interface.md R64) -/

theorem exec_regrd (n : RegNum) (s : State) : exec (.regrd n) s = .next (s.respond (s.readReg n)) := rfl

/-- A reserved register number reads as 0 (20_memory.md R41). -/
theorem State.readReg_of_reserved (s : State) {n : RegNum} (reserved : 6 ≤ n.toNat) : s.readReg n = 0#128 := by
  unfold State.readReg
  split
  iterate 5 · omega
  rfl

theorem exec_regrd_of_reserved (s : State) {n : RegNum} (reserved : 6 ≤ n.toNat) :
    exec (.regrd n) s = .next (s.respond 0#128) := by
  rw [exec_regrd, s.readReg_of_reserved reserved]

/-- Settles O17: a read answers `readReg` of its number, which is computed at 0 to 5 and 0 at every reserved number. -/
theorem registerReads : Obligations.RegisterReads :=
  ⟨decodeTxn_readTxn, fun s => ⟨exec_regrd 0#4 s, exec_regrd 1#4 s, exec_regrd 2#4 s, exec_regrd 3#4 s,
    exec_regrd 4#4 s, exec_regrd 5#4 s, fun _ => exec_regrd_of_reserved s⟩⟩

/-! ## Writes to the operand registers, and ignored writes (R65 to R67) -/

/-- Settles O18: the write replaces its register alone, and the read that follows answers that register. -/
theorem operandWrites : Obligations.OperandWrites := fun s w =>
  ⟨decodeTxn_writeTxn 0#4 w, decodeTxn_writeTxn 1#4 w, rfl, rfl,
    exec_regrd 0#4 { s with opa := w }, exec_regrd 1#4 { s with opb := w }⟩

/-- Settles O19: the four rows are `Ignored` instructions, a write to a number of theirs decodes to one of them, and a
reserved number reads as 0. -/
theorem ignoredWrites : Obligations.IgnoredWrites := by
  intro s n w
  refine ⟨exec_of_ignored (i := .regwrRes w) trivial s, exec_of_ignored (i := .regwrResh w) trivial s,
    exec_of_ignored (i := .regwrRsv67 n w) trivial s, exec_of_ignored (i := .regwrRsv815 n w) trivial s,
    fun unwritable => ?_, fun reserved => ?_⟩
  · rw [decodeTxn_writeTxn]
    exact exec_of_ignored (decodeWrite_ignored w unwritable) s
  · rw [decodeTxn_readTxn]
    exact exec_regrd_of_reserved s reserved

/-! ## STATUS (10_state.md R19, 40_command_interface.md R68) -/

/-- The three low bits of STATUS are its flags; `State.status_getLsbD_of_le` has the others. -/
theorem State.status_getLsbD_flags (s : State) :
    s.status.getLsbD 0 = s.busy ∧ s.status.getLsbD 1 = s.ill ∧ s.status.getLsbD 2 = s.ovr := by
  unfold State.status
  simp only [BitVec.getLsbD_setWidth, BitVec.getLsbD_append]
  simp

/-- Clearing by ones, as a choice on each flag's bit of the written word. -/
theorem State.clearFlags_eq_ite (s : State) (w : Word) :
    s.clearFlags w =
      { s with ill := if w.getLsbD 1 then false else s.ill, ovr := if w.getLsbD 2 then false else s.ovr } := by
  unfold State.clearFlags
  cases w.getLsbD 1 <;> cases w.getLsbD 2 <;> simp

/-- Settles O20: the bits of STATUS are its flags with zeros above, and a write is `clearFlags`. -/
theorem statusRegister : Obligations.StatusRegister := by
  intro s
  obtain ⟨busy, ill, ovr⟩ := s.status_getLsbD_flags
  exact ⟨⟨rfl, busy, ill, ovr, fun _ => s.status_getLsbD_of_le⟩,
    fun w => ⟨decodeTxn_writeTxn 5#4 w, congrArg Host.Outcome.next (s.clearFlags_eq_ite w)⟩⟩

/-! ## Writes to CMD (R69 to R72) -/

/-- Settles O21: a busy block overruns, and an idle one does what the verdict on the word says. -/
theorem commandWrite : Obligations.CommandWrite := by
  intro s c
  refine ⟨decodeTxn_writeTxn 4#4 c, execRegwrCmd_busy c, fun idle bad => ?_, fun idle zero => ?_,
    fun op idle word => ?_⟩
  · exact execRegwrCmd_illegal idle (verdict_eq_illegal_iff.mpr bad)
  · exact execRegwrCmd_nop idle (zero ▸ verdict_zero)
  · exact execRegwrCmd_issue idle (word ▸ verdict_word op)

/-! ## Completion (R73, R74) -/

/-- What a completion writes is the result of the latch. -/
theorem State.complete_results {s : State} {p : Pending} (h : s.pend = some p) :
    s.complete.res = (result p.op p.a p.b).1 ∧ s.complete.resh = (result p.op p.a p.b).2 := by
  rw [State.complete_some h]
  exact ⟨rfl, rfl⟩

/-- Settles O13: each row of R74 is the definition's, and a completion writes the result of its latch whatever else the
state holds. -/
theorem resultDependsOnLatchOnly : Obligations.ResultDependsOnLatchOnly := by
  refine ⟨fun _ _ => rfl, fun _ _ => rfl, fun _ _ => rfl, fun _ _ => rfl, fun _ _ => rfl, fun s t p hs ht => ?_⟩
  obtain ⟨res, resh⟩ := State.complete_results hs
  obtain ⟨res', resh'⟩ := State.complete_results ht
  exact ⟨res.trans res'.symm, resh.trans resh'.symm⟩

end Sys2Proof.Machine
end

section
/-! Proofs of the family 41_codec. A bit reversal of a slice is the slice at the mirrored place of the reversal, and a
command's two steps from issue to completion. -/

namespace Sys2Proof.Machine

/-! ## Bit reversal (00_scope.md R7) -/

theorem bitrev_bitrev {n : Nat} (v : BitVec n) : bitrev (bitrev v) = v := BitVec.reverse_reverse_eq

theorem bitrev_xor {n : Nat} (v u : BitVec n) : bitrev (v ^^^ u) = bitrev v ^^^ bitrev u := by
  refine BitVec.eq_of_getLsbD_eq fun i hi => ?_
  rw [BitVec.getLsbD_xor, bitrev_getLsbD _ i hi, bitrev_getLsbD _ i hi, bitrev_getLsbD _ i hi, BitVec.getLsbD_xor]

/-- A slice of a reversal is the reversal of the slice that has as many bits above it as this one has below. -/
theorem extractLsb'_bitrev {n : Nat} (v : BitVec n) {low len mirrored : Nat} (h : low + len + mirrored = n) :
    (bitrev v).extractLsb' low len = bitrev (v.extractLsb' mirrored len) := by
  refine BitVec.eq_of_getLsbD_eq fun i hi => ?_
  have place : n - 1 - (low + i) = mirrored + (len - 1 - i) := by omega
  rw [BitVec.getLsbD_extractLsb', bitrev_getLsbD v _ (by omega), place, bitrev_getLsbD _ i hi,
    BitVec.getLsbD_extractLsb']
  simp [hi, show len - 1 - i < len by omega]

/-! ## The codec's three descriptions (41_codec.md R79) -/

theorem decodeElement_eq_encodeElement (w : Word) : decodeElement w = encodeElement w := rfl

/-- A word is its two halves (R6). -/
theorem hi64_append_lo64 (w : Word) : hi64 w ++ lo64 w = w := BitVec.extractLsb'_append_extractLsb'

theorem hi64_encodeElement (w : Word) : hi64 (encodeElement w) = bitrev (lo64 w) := extractLsb'_bitrev w rfl

theorem lo64_encodeElement (w : Word) : lo64 (encodeElement w) = bitrev (hi64 w) := extractLsb'_bitrev w rfl

theorem encodeElement_eq_append (w : Word) : encodeElement w = bitrev (lo64 w) ++ bitrev (hi64 w) := by
  rw [← hi64_encodeElement, ← lo64_encodeElement, hi64_append_lo64]

/-- Settles O44: bit by bit the codec is `encodeElement_getLsbD`, and each byte and half of the reversal is the mirrored
slice, reversed (`extractLsb'_bitrev`). -/
theorem codecIsFullBitReversal : Obligations.CodecIsFullBitReversal := fun w =>
  ⟨fun _ => encodeElement_getLsbD w, decodeElement_eq_encodeElement w,
    fun _ hk => extractLsb'_bitrev w (by omega), fun _ hk => extractLsb'_bitrev w (by omega),
    encodeElement_eq_append w, hi64_encodeElement w, lo64_encodeElement w⟩

/-! ## The codec's laws and named elements (41_codec.md R82, R83) -/

theorem encodeElement_involutive : Function.Involutive encodeElement := bitrev_bitrev

/-- Settles O45: a reversal is its own inverse, so a bijection, and commutes with exclusive or; the named elements are
computed. -/
theorem codecLaws : Obligations.CodecLaws :=
  ⟨fun w => ⟨encodeElement_involutive w, encodeElement_involutive w⟩, encodeElement_involutive.bijective,
    encodeElement_involutive.bijective, bitrev_xor, by decide +kernel, by decide +kernel,
    by decide +kernel, by decide +kernel⟩

/-! ## A command from issue to completion (40_command_interface.md R70, R73) -/

theorem step_host {s : State} {w : TxnWord} {rest : List Slot} (h : s.schedule = .host w :: rest) :
    step s = exec (decodeTxn w) { s with schedule := rest } := by
  rw [step, State.nextSlot_cons h, State.dropSlot_cons h]

theorem step_core {s : State} {rest : List Slot} (h : s.schedule = .core :: rest) :
    step s = .next ({ s with schedule := rest } : State).complete := by
  rw [step, State.nextSlot_cons h, State.dropSlot_cons h]

/-- Any command, written while the block is idle, samples the operands and completes with its result. -/
theorem runsCommand_of_idle {s : State} (op : Op) (rest : List Slot) (idle : s.busy = false) :
    RunsCommand op op.word s rest (result op s.opa s.opb) := by
  constructor
  · rw [step_host rfl, decodeTxn_writeTxn]
    exact execRegwrCmd_issue idle (verdict_word op)
  · rw [step_core rfl, State.complete_some rfl]

/-- Settles O26: both commands complete with their result, which is the codec's word of OPA. -/
theorem codecCommands : Obligations.CodecCommands := fun s rest idle =>
  ⟨encodeElement s.opa, runsCommand_of_idle .enc rest idle, runsCommand_of_idle .dec rest idle,
    fun _ => encodeElement_getLsbD s.opa⟩

end Sys2Proof.Machine
end

section
/-! Proofs of the family 42_multiplier. Words as polynomials over GF(2): exclusive or is the sum, a shift a power of x,
`clmul` the product and `pmod` the remainder modulo P. Words with the same polynomial are equal, so the schoolbook form,
squaring and the reduction of a product are identities of polynomials. -/

namespace Sys2Proof.Machine

open Polynomial

/-! ## The polynomial of a word (00_scope.md R7) -/

theorem coeff_polyOf {n : Nat} (v : BitVec n) (i : Nat) : (polyOf v).coeff i = if v.getLsbD i then 1 else 0 := by
  have bits (j : Nat) : (if v.getLsbD j then X ^ j else 0 : (ZMod 2)[X]).coeff i =
      if j = i then (if v.getLsbD i then 1 else 0) else 0 := by
    by_cases h : j = i
    · subst h; split <;> simp
    · split <;> simp [coeff_X_pow, Ne.symm h]
  rw [polyOf, finsetSum_coeff, Finset.sum_congr rfl fun j _ => bits j, Finset.sum_ite_eq']
  by_cases h : i < n
  · simp [h]
  · simp [h, BitVec.getLsbD_of_ge v i (by omega)]

theorem getLsbD_eq_coeff_polyOf {n : Nat} (v : BitVec n) (i : Nat) : v.getLsbD i = decide ((polyOf v).coeff i = 1) := by
  rw [coeff_polyOf]
  cases v.getLsbD i <;> rfl

/-- A word is known by its polynomial. -/
theorem polyOf_injective {n : Nat} : Function.Injective (polyOf (n := n)) := by
  intro v u h
  refine BitVec.eq_of_getLsbD_eq fun i _ => ?_
  rw [getLsbD_eq_coeff_polyOf, h, ← getLsbD_eq_coeff_polyOf]

theorem degree_polyOf_lt {n : Nat} (v : BitVec n) : (polyOf v).degree < n :=
  (degree_lt_iff_coeff_zero _ _).2 fun i hi => by simp [coeff_polyOf, BitVec.getLsbD_of_ge v i hi]

@[simp] theorem polyOf_zero (n : Nat) : polyOf (0#n) = 0 := by
  ext i
  simp [coeff_polyOf]

theorem polyOf_twoPow {n k : Nat} (h : k < n) : polyOf (BitVec.twoPow n k) = X ^ k := by
  ext i
  rw [coeff_polyOf, BitVec.getLsbD_twoPow, coeff_X_pow]
  simp [h, eq_comm]

@[simp] theorem polyOf_xor {n : Nat} (v u : BitVec n) : polyOf (v ^^^ u) = polyOf v + polyOf u := by
  ext i
  rw [coeff_add, coeff_polyOf, coeff_polyOf, coeff_polyOf, BitVec.getLsbD_xor]
  cases v.getLsbD i <;> cases u.getLsbD i <;> decide

/-- A change of width that loses no set bit keeps the polynomial. -/
theorem polyOf_setWidth {m n : Nat} (v : BitVec m) (fits : ∀ i, n ≤ i → v.getLsbD i = false) :
    polyOf (v.setWidth n) = polyOf v := by
  ext i
  by_cases h : i < n
  · simp [coeff_polyOf, h]
  · simp [coeff_polyOf, h, fits i (by omega)]

theorem polyOf_setWidth_of_le {m n : Nat} (v : BitVec m) (h : m ≤ n) : polyOf (v.setWidth n) = polyOf v :=
  polyOf_setWidth v fun i hi => BitVec.getLsbD_of_ge v i (by omega)

/-- A shift within the new width multiplies by a power of x. -/
theorem polyOf_setWidth_shiftLeft {m n : Nat} (v : BitVec m) {k : Nat} (fits : m + k ≤ n) :
    polyOf (v.setWidth n <<< k) = polyOf v * X ^ k := by
  ext i
  rw [coeff_mul_X_pow', coeff_polyOf, coeff_polyOf, BitVec.getLsbD_shiftLeft, BitVec.getLsbD_setWidth]
  by_cases low : i < k
  · simp [low, Nat.not_le.2 low]
  · by_cases inside : i < n
    · have below : i - k < n := by omega
      simp [low, inside, below, Nat.le_of_not_lt low]
    · simp [inside, BitVec.getLsbD_of_ge v (i - k) (by omega)]

theorem polyOf_append {m n : Nat} (u : BitVec m) (v : BitVec n) :
    polyOf (u ++ v) = polyOf u * X ^ n + polyOf v := by
  ext i
  rw [coeff_add, coeff_mul_X_pow', coeff_polyOf, coeff_polyOf, coeff_polyOf, BitVec.getLsbD_append]
  by_cases low : i < n
  · simp [low, Nat.not_le.2 low]
  · simp [low, Nat.le_of_not_lt low]

/-! ## The carryless product (R85) -/

/-- The first `k` bits of `a` contribute their part of the product. -/
theorem polyOf_clmulUpTo {m n : Nat} (a : BitVec m) (b : BitVec n) {k : Nat} (h : k ≤ m) :
    polyOf (clmulUpTo a b k) = (∑ i ∈ Finset.range k, if a.getLsbD i then X ^ i else 0) * polyOf b := by
  induction k with
  | zero => simp [clmulUpTo]
  | succ k ih =>
    rw [clmulUpTo_succ, polyOf_xor, ih (by omega), Finset.sum_range_succ, add_mul]
    cases a.getLsbD k with
    | false => simp
    | true => rw [if_pos rfl, if_pos rfl, polyOf_setWidth_shiftLeft b (by omega), mul_comm (polyOf b)]

theorem polyOf_clmul {m n : Nat} (a : BitVec m) (b : BitVec n) : polyOf (clmul a b) = polyOf a * polyOf b :=
  polyOf_clmulUpTo a b le_rfl

/-! ## The remainder modulo P (R84) -/

/-- P as a word has its five terms. -/
theorem fieldPoly_eq_xor_twoPow : Config.fieldPoly = BitVec.twoPow 129 128 ^^^ BitVec.twoPow 129 7 ^^^
    BitVec.twoPow 129 2 ^^^ BitVec.twoPow 129 1 ^^^ BitVec.twoPow 129 0 := by decide +kernel

theorem polyOf_fieldPoly : polyOf Config.fieldPoly = fieldPolynomial := by
  unfold fieldPolynomial
  rw [fieldPoly_eq_xor_twoPow, polyOf_xor, polyOf_xor, polyOf_xor, polyOf_xor, polyOf_twoPow (by omega),
    polyOf_twoPow (by omega), polyOf_twoPow (by omega), polyOf_twoPow (by omega), polyOf_twoPow (by omega),
    pow_one, pow_zero]

theorem degree_fieldPolynomial : fieldPolynomial.degree = 128 := by
  unfold fieldPolynomial
  compute_degree!

theorem monic_fieldPolynomial : fieldPolynomial.Monic := by
  unfold fieldPolynomial
  monicity!

/-- Division adds multiples of P only, so it keeps the remainder. -/
theorem polyOf_foldTop_modByMonic {n k : Nat} (h : k ≤ n - 128) (v : BitVec n) :
    polyOf (foldTop k v) %ₘ fieldPolynomial = polyOf v %ₘ fieldPolynomial := by
  induction k generalizing v with
  | zero => rfl
  | succ k ih =>
    rw [foldTop_succ, ih (by omega), polyOf_xor, add_modByMonic]
    cases v.getLsbD (128 + k) with
    | false => simp
    | true =>
      rw [if_pos rfl, polyOf_setWidth_shiftLeft _ (by omega), polyOf_fieldPoly,
        self_mul_modByMonic monic_fieldPolynomial, add_zero]

/-- The step of the division adds nothing above bit `128 + k`, where it adds the bit that it clears. -/
theorem fieldPoly_shiftLeft_getLsbD {n k i : Nat} (hi : i < n) (h : 128 + k ≤ i) :
    (Config.fieldPoly.setWidth n <<< k).getLsbD i = decide (i = 128 + k) := by
  rw [BitVec.getLsbD_shiftLeft, BitVec.getLsbD_setWidth]
  rcases Nat.eq_or_lt_of_le h with rfl | above
  · have top : Config.fieldPoly.getLsbD 128 = true := by decide
    have below : 128 < n := by omega
    simp [hi, top, below]
  · have zero : Config.fieldPoly.getLsbD (i - k) = false := BitVec.getLsbD_of_ge _ _ (by omega)
    simp [zero, Nat.ne_of_gt above]

/-- Division clears the bits from 128 up. -/
theorem foldTop_getLsbD_of_le {n k : Nat} {v : BitVec n} (above : ∀ i, 128 + k ≤ i → v.getLsbD i = false)
    {i : Nat} (hi : 128 ≤ i) : (foldTop k v).getLsbD i = false := by
  induction k generalizing v with
  | zero => exact above i hi
  | succ k ih =>
    rw [foldTop_succ]
    refine ih fun j hj => ?_
    by_cases inside : j < n
    · have rest : v.getLsbD j = (v.getLsbD (128 + k) && decide (j = 128 + k)) := by
        rcases Nat.eq_or_lt_of_le hj with rfl | beyond
        · simp
        · simp [above j beyond, Nat.ne_of_gt beyond]
      rw [BitVec.getLsbD_xor, rest]
      cases v.getLsbD (128 + k) <;> simp [fieldPoly_shiftLeft_getLsbD inside hj]
    · exact BitVec.getLsbD_of_ge _ j (by omega)

/-- `pmod` is the remainder modulo P (R7, R84). -/
theorem polyOf_pmod {n : Nat} (v : BitVec n) : polyOf (pmod v) = polyOf v %ₘ fieldPolynomial := by
  have above (i : Nat) (hi : 128 + (n - 128) ≤ i) : v.getLsbD i = false := BitVec.getLsbD_of_ge v i (by omega)
  have small : (polyOf (pmod v)).degree < fieldPolynomial.degree := by
    rw [degree_fieldPolynomial]
    exact degree_polyOf_lt _
  have kept : polyOf (pmod v) = polyOf (foldTop (n - 128) v) :=
    polyOf_setWidth _ fun i hi => foldTop_getLsbD_of_le above hi
  rw [← (modByMonic_eq_self_iff monic_fieldPolynomial).2 small, kept, polyOf_foldTop_modByMonic le_rfl]

/-- A word below P is its own remainder. -/
theorem pmod_setWidth {n : Nat} (w : Word) (h : 128 ≤ n) : pmod (w.setWidth n) = w := by
  apply polyOf_injective
  rw [polyOf_pmod, polyOf_setWidth_of_le w h, modByMonic_eq_self_iff monic_fieldPolynomial, degree_fieldPolynomial]
  exact degree_polyOf_lt w

/-! ## The halves of a product (R85, R88) -/

theorem high128_append_low128 (p : WideWord) : high128 p ++ low128 p = p := BitVec.extractLsb'_append_extractLsb'

/-- The remainder of a 256-bit word is its low half and the reduction of its high half (R88). -/
theorem pmod_eq_low128_xor_reduce (v : WideWord) : pmod v = low128 v ^^^ reduce (high128 v) := by
  have split : v = (low128 v).setWidth 256 ^^^ (high128 v ++ 0#128) := by
    apply polyOf_injective
    rw [polyOf_xor, polyOf_setWidth_of_le _ (by omega), polyOf_append, polyOf_zero, add_zero, add_comm,
      ← polyOf_append, high128_append_low128]
  calc pmod v = pmod ((low128 v).setWidth 256 ^^^ (high128 v ++ 0#128)) := congrArg pmod split
    _ = low128 v ^^^ reduce (high128 v) := by rw [pmod_xor, pmod_setWidth _ (by omega), reduce]

theorem fieldMul_eq_pmod_clmul (a b : Word) : fieldMul a b = pmod (clmul a b) :=
  (pmod_eq_low128_xor_reduce (product a b)).symm

/-- Settles O33: `fieldMul` is the remainder of the product, by the split of a 256-bit word's remainder into its halves
(`pmod_eq_low128_xor_reduce`). -/
theorem fieldMulIsFieldProduct : Obligations.FieldMulIsFieldProduct :=
  ⟨fun a b => ⟨fieldMul_eq_pmod_clmul a b, by rw [fieldMul_eq_pmod_clmul, polyOf_pmod, polyOf_clmul], rfl⟩,
    pmod_eq_low128_xor_reduce⟩

/-- Settles O34: a product has no copy of `b` shifted past 127 (`clmulUpTo_getLsbD_of_le`). -/
theorem productTopBitIsZero : Obligations.ProductTopBitIsZero := fun a b =>
  ⟨rfl, (high128_append_low128 _).symm, clmulUpTo_getLsbD_of_le a b (by omega), high128_product_getLsbD_127 a b⟩

/-- Settles O27: GMUL completes with `fieldMul`, the remainder of the product. -/
theorem gmulCommand : Obligations.GmulCommand := fun s rest idle =>
  ⟨fieldMul s.opa s.opb, runsCommand_of_idle .gmul rest idle, rfl, fieldMul_eq_pmod_clmul s.opa s.opb⟩

/-- Settles O28: CLMUL completes with the product's halves, and the top bit of the high half is 0. -/
theorem clmulCommand : Obligations.ClmulCommand := fun s rest idle =>
  ⟨runsCommand_of_idle .clmul rest idle, high128_product_getLsbD_127 s.opa s.opb, rfl⟩

/-! ## The schoolbook decomposition (R86) -/

theorem polyOf_eq_halves (w : Word) : polyOf w = polyOf (hi64 w) * X ^ 64 + polyOf (lo64 w) := by
  rw [← polyOf_append, hi64_append_lo64]

/-- As polynomials, each operand is its high half times x^64 and its low half; the product multiplies out. -/
theorem schoolbook_eq_product (a b : Word) : schoolbook a b = product a b := by
  apply polyOf_injective
  simp only [schoolbook, product, polyOf_xor, polyOf_append, polyOf_zero]
  rw [polyOf_setWidth_shiftLeft _ (by omega), polyOf_setWidth_of_le _ (by omega)]
  simp only [polyOf_xor, polyOf_clmul, polyOf_eq_halves a, polyOf_eq_halves b]
  ring

theorem clmul_xor_left {m n : Nat} (a c : BitVec m) (b : BitVec n) : clmul (a ^^^ c) b = clmul a b ^^^ clmul c b :=
  clmulUpTo_xor_left a c b m

theorem clmul_xor_right {m n : Nat} (a : BitVec m) (b d : BitVec n) : clmul a (b ^^^ d) = clmul a b ^^^ clmul a d :=
  clmulUpTo_xor_right a b d m

/-- The cross terms are what the product of the sums has beside the two half products. -/
theorem karatsubaMid_eq_cross (a b : Word) :
    karatsubaMid a b = (clmul (hi64 a) (lo64 b) ^^^ clmul (lo64 a) (hi64 b) : BitVec 128) := by
  rw [karatsubaMid, clmul_xor_left, clmul_xor_right, clmul_xor_right]
  generalize clmul (hi64 a) (hi64 b) = hh, clmul (lo64 a) (lo64 b) = ll, clmul (lo64 a) (hi64 b) = cross
  rw [BitVec.xor_assoc _ hh ll, BitVec.xor_comm cross ll, xor_four hh _ ll cross, BitVec.xor_comm (hh ^^^ ll),
    BitVec.xor_assoc, BitVec.xor_self, BitVec.xor_zero]

/-- Settles O35: the decomposition by polynomials, the Karatsuba form by linearity of `clmul`, the top bits by the degree
bound. -/
theorem schoolbookIsProduct : Obligations.SchoolbookIsProduct := fun a b =>
  ⟨schoolbook_eq_product a b, karatsubaMid_eq_cross a b, clmulUpTo_getLsbD_of_le _ _ (by omega),
    clmulUpTo_getLsbD_of_le _ _ (by omega)⟩

/-! ## Squaring (R93) -/

theorem polyOf_clmul_self {n : Nat} (a : BitVec n) : polyOf (clmul a a) = expand (ZMod 2) 2 (polyOf a) := by
  rw [polyOf_clmul, ZMod.expand_card, sq]

/-- In characteristic 2 the square's coefficients are those of the word, at the even places. -/
theorem clmul_self_getLsbD {n : Nat} (a : BitVec n) (i : Nat) :
    (clmul a a).getLsbD i = (decide (2 ∣ i) && a.getLsbD (i / 2)) := by
  rw [getLsbD_eq_coeff_polyOf, polyOf_clmul_self, coeff_expand Nat.two_pos, getLsbD_eq_coeff_polyOf a]
  by_cases even : 2 ∣ i <;> simp [even]

/-- Settles O40: each place by `clmul_self_getLsbD`; the examples are computed. -/
theorem squaringSpreadsBits : Obligations.SquaringSpreadsBits :=
  ⟨fun a => ⟨fun i _ => by simp [clmul_self_getLsbD], fieldMul_eq_pmod_clmul a a⟩,
    by decide +kernel, by decide +kernel⟩

end Sys2Proof.Machine
end

section
/-! Proofs of the family 43_reduction. `reduce` multiplies by x^128 modulo P, so it is linear, and it is injective since
P is prime to x. Because x^128 is congruent to x^7 + x^2 + x + 1, it is also the remainder of the closed form's word
`closedT`, whose high half has seven bits only; the patterns T[i] and the closed form follow from that one fold. -/

namespace Sys2Proof.Machine

open Polynomial

/-! ## The contract (43_reduction.md R94) -/

theorem polyOf_reduce (h : Word) : polyOf (reduce h) = (polyOf h * X ^ 128) %ₘ fieldPolynomial := by
  rw [reduce, polyOf_pmod, polyOf_append, polyOf_zero, add_zero]

/-- Settles O36: `pmod` is the remainder, and the word reduced has `h` above 128 zeros. -/
theorem reductionContract : Obligations.ReductionContract := fun h => ⟨rfl, polyOf_reduce h⟩

/-- Settles O29: RED completes with its result, the reduction of OPA. -/
theorem redCommand : Obligations.RedCommand := fun _ rest idle => runsCommand_of_idle .red rest idle

/-! ## The laws (43_reduction.md R98) -/

@[simp] theorem reduce_zero : reduce 0#128 = 0#128 := by decide +kernel

theorem reduce_xor (a b : Word) : reduce (a ^^^ b) = reduce a ^^^ reduce b := by
  rw [reduce, reduce, reduce, ← pmod_xor, BitVec.xor_append, BitVec.xor_zero]

/-- The constant term of P is 1. -/
theorem isCoprime_fieldPolynomial_X : IsCoprime fieldPolynomial X := by
  refine ⟨1, -(X ^ 127 + X ^ 6 + X + 1), ?_⟩
  unfold fieldPolynomial
  ring

/-- A word has smaller degree than a divisor of degree its width, and one prime to x shares no factor with x^k. -/
theorem eq_zero_of_dvd_polyOf_mul_X_pow {p : (ZMod 2)[X]} {n k : Nat} {v : BitVec n} (coprime : IsCoprime p X)
    (degree : p.degree = n) (divides : p ∣ polyOf v * X ^ k) : v = 0#n := by
  apply polyOf_injective
  rw [polyOf_zero]
  exact eq_zero_of_dvd_of_degree_lt (coprime.pow_right.dvd_of_dvd_mul_right divides)
    (degree ▸ degree_polyOf_lt v)

theorem eq_zero_of_reduce_eq_zero {h : Word} (zero : reduce h = 0#128) : h = 0#128 := by
  apply eq_zero_of_dvd_polyOf_mul_X_pow (k := 128) isCoprime_fieldPolynomial_X degree_fieldPolynomial
  rw [← modByMonic_eq_zero_iff_dvd monic_fieldPolynomial, ← polyOf_reduce, zero, polyOf_zero]

theorem reduce_injective : Function.Injective reduce := fun a b same => by
  rw [← BitVec.xor_eq_zero_iff] at same ⊢
  rw [← reduce_xor] at same
  exact eq_zero_of_reduce_eq_zero same

/-- Settles O39: linear, and injective on a finite type, so a bijection; the counterexample to idempotence is
computed. -/
theorem reductionLaws : Obligations.ReductionLaws :=
  ⟨reduce_zero, reduce_xor, Finite.injective_iff_bijective.1 reduce_injective, by decide +kernel, by decide +kernel⟩

/-! ## One fold of the overflow (43_reduction.md R96) -/

/-- `closedT` is the product with x^7 + x^2 + x + 1. -/
theorem polyOf_closedT (h : Word) : polyOf (closedT h) = polyOf h * (1 + X + X ^ 2 + X ^ 7) := by
  rw [closedT, polyOf_xor, polyOf_xor, polyOf_xor, polyOf_setWidth_shiftLeft _ (by omega),
    polyOf_setWidth_shiftLeft _ (by omega), polyOf_setWidth_shiftLeft _ (by omega),
    polyOf_setWidth_of_le _ (by omega)]
  ring

/-- In characteristic 2, x^128 is x^7 + x^2 + x + 1 and P. -/
theorem X_pow_eq_low_add_fieldPolynomial : X ^ 128 = 1 + X + X ^ 2 + X ^ 7 + fieldPolynomial := by
  unfold fieldPolynomial
  linear_combination -(1 + X + X ^ 2 + X ^ 7) * CharTwo.two_eq_zero (R := (ZMod 2)[X])

theorem reduce_eq_pmod_closedT (h : Word) : reduce h = pmod (closedT h) := by
  apply polyOf_injective
  rw [polyOf_reduce, polyOf_pmod, polyOf_closedT, X_pow_eq_low_add_fieldPolynomial, mul_add _ _ fieldPolynomial,
    add_modByMonic, mul_self_modByMonic monic_fieldPolynomial, add_zero]

theorem high128_setWidth_shiftLeft (h : Word) {k : Nat} (hk : k ≤ 128) :
    high128 (h.setWidth 256 <<< k) = h >>> (128 - k) := by
  refine BitVec.eq_of_getLsbD_eq fun i hi => ?_
  have place : 128 + i - k = 128 - k + i := by omega
  rw [high128, BitVec.getLsbD_extractLsb', BitVec.getLsbD_shiftLeft, BitVec.getLsbD_setWidth,
    BitVec.getLsbD_ushiftRight, place]
  simp [hi, show ¬128 + i < k by omega, show 128 + i < 256 by omega, show 128 - k + i < 256 by omega]

theorem low128_setWidth_shiftLeft (h : Word) (k : Nat) : low128 (h.setWidth 256 <<< k) = h <<< k := by
  refine BitVec.eq_of_getLsbD_eq fun i hi => ?_
  rw [low128, BitVec.getLsbD_extractLsb', BitVec.getLsbD_shiftLeft, BitVec.getLsbD_setWidth, BitVec.getLsbD_shiftLeft]
  simp [hi, show i < 256 by omega, show i - k < 256 by omega]

theorem low128_setWidth (h : Word) : low128 (h.setWidth 256) = h := by
  simpa using low128_setWidth_shiftLeft h 0

theorem high128_setWidth (h : Word) : high128 (h.setWidth 256) = 0#128 := by
  rw [← BitVec.shiftLeft_zero (h.setWidth 256), high128_setWidth_shiftLeft h (by omega)]
  exact BitVec.ushiftRight_eq_zero le_rfl

theorem low128_xor (v u : WideWord) : low128 (v ^^^ u) = low128 v ^^^ low128 u := BitVec.extractLsb'_xor

theorem high128_xor (v u : WideWord) : high128 (v ^^^ u) = high128 v ^^^ high128 u := BitVec.extractLsb'_xor

theorem low128_closedT (h : Word) : low128 (closedT h) = h ^^^ h <<< 1 ^^^ h <<< 2 ^^^ h <<< 7 := by
  simp only [closedT, low128_xor, low128_setWidth, low128_setWidth_shiftLeft]

/-- The high half holds the bits that the four shifts push past 127. -/
theorem high128_closedT (h : Word) : high128 (closedT h) = h >>> 127 ^^^ h >>> 126 ^^^ h >>> 121 := by
  rw [closedT, high128_xor, high128_xor, high128_xor, high128_setWidth, BitVec.zero_xor,
    high128_setWidth_shiftLeft h (by omega), high128_setWidth_shiftLeft h (by omega),
    high128_setWidth_shiftLeft h (by omega)]

theorem high128_closedT_getLsbD (h : Word) {i : Nat} (hi : 7 ≤ i) : (high128 (closedT h)).getLsbD i = false := by
  have beyond (k : Nat) (hk : 121 ≤ k) : h.getLsbD (k + i) = false := BitVec.getLsbD_of_ge h _ (by omega)
  simp [high128_closedT, beyond]

/-- The fold: the high half of `closedT` is an overflow again. -/
theorem reduce_eq_fold (h : Word) : reduce h = low128 (closedT h) ^^^ reduce (high128 (closedT h)) := by
  rw [reduce_eq_pmod_closedT, pmod_eq_low128_xor_reduce]

/-- A word with no bit above 120 needs one fold. -/
theorem reduce_eq_low128_closedT {h : Word} (small : ∀ i, 121 ≤ i → h.getLsbD i = false) :
    reduce h = low128 (closedT h) := by
  have none_above : high128 (closedT h) = 0#128 := by
    refine BitVec.eq_of_getLsbD_eq fun i _ => ?_
    simp [high128_closedT, small (127 + i) (by omega), small (126 + i) (by omega), small (121 + i) (by omega)]
  rw [reduce_eq_fold, none_above, reduce_zero, BitVec.xor_zero]

theorem reduce_eq_reduceClosed (h : Word) : reduce h = reduceClosed h := by
  have second := reduce_eq_low128_closedT fun i hi => high128_closedT_getLsbD h (i := i) (by omega)
  rw [reduce_eq_fold, second, low128_closedT (high128 _), reduceClosed]
  simp only [BitVec.xor_assoc]

/-! ## The patterns (43_reduction.md R95) -/

theorem fieldPolyLow_shiftLeft (j : Nat) : Config.fieldPolyLow <<< j = low128 (closedT (BitVec.twoPow 128 j)) := by
  have terms : Config.fieldPolyLow = 1#128 ^^^ 1#128 <<< 1 ^^^ 1#128 <<< 2 ^^^ 1#128 <<< 7 := by decide
  simp only [terms, low128_closedT, BitVec.twoPow_eq, BitVec.shiftLeft_xor_distrib, ← BitVec.shiftLeft_add,
    Nat.add_comm j]

theorem twoPow_ushiftRight {n i k : Nat} (hi : i < n) :
    BitVec.twoPow n i >>> k = if k ≤ i then BitVec.twoPow n (i - k) else 0#n := by
  refine BitVec.eq_of_getLsbD_eq fun j hj => ?_
  rw [BitVec.getLsbD_ushiftRight, BitVec.getLsbD_twoPow]
  split
  case isTrue inside =>
    have place : i = k + j ↔ i - k = j := by omega
    simp [hi, place, show i - k < n by omega]
  case isFalse outside => simp [show i ≠ k + j by omega]

/-- What the bit `i` contributes through a shift that pushes seven bits at most past 127. -/
theorem reduce_twoPow_ushiftRight {i k : Nat} (hi : i < 128) (hk : 121 ≤ k) :
    reduce (BitVec.twoPow 128 i >>> k) = if k ≤ i then Config.fieldPolyLow <<< (i - k) else 0#128 := by
  rw [twoPow_ushiftRight hi]
  split
  · rw [fieldPolyLow_shiftLeft, reduce_eq_low128_closedT]
    intro j hj
    rw [BitVec.getLsbD_twoPow, decide_eq_false (by omega : i - k ≠ j), Bool.and_false]
  · exact reduce_zero

/-- T[i] is the reduction of bit `i` alone. -/
theorem pattern_eq_reduce_twoPow {i : Nat} (hi : i < 128) : pattern i = reduce (BitVec.twoPow 128 i) := by
  have top : (if i = 127 then Config.fieldPolyLow else 0#128) =
      if 127 ≤ i then Config.fieldPolyLow <<< (i - 127) else 0#128 := by
    by_cases last : i = 127
    · subst last; rfl
    · rw [if_neg last, if_neg (by omega)]
  rw [reduce_eq_fold, high128_closedT, reduce_xor, reduce_xor, reduce_twoPow_ushiftRight hi (by omega),
    reduce_twoPow_ushiftRight hi (by omega), reduce_twoPow_ushiftRight hi (by omega), ← fieldPolyLow_shiftLeft,
    pattern, top]
  ac_rfl

theorem pattern_eq_pmod {i : Nat} (hi : i < 128) : pattern i = pmod (1#256 <<< (128 + i)) := by
  have place : BitVec.twoPow 128 i ++ 0#128 = BitVec.twoPow 256 (128 + i) := by
    apply polyOf_injective
    rw [polyOf_append, polyOf_twoPow hi, polyOf_twoPow (by omega), polyOf_zero, add_zero, ← pow_add, add_comm]
  rw [pattern_eq_reduce_twoPow hi, reduce, place, BitVec.twoPow_eq]

theorem pattern_of_le {i : Nat} (hi : i ≤ 120) : pattern i = Config.fieldPolyLow <<< i := by
  simp [pattern, show ¬121 ≤ i by omega, show ¬126 ≤ i by omega, show i ≠ 127 by omega]

theorem pattern_127 : pattern 127 = 0x80000000000000000000000000002049#128 := by decide +kernel

/-! ## The per-bit form (43_reduction.md R95, R97) -/

/-- The first `k` bits of `h` contribute their part of the reduction. -/
theorem polyOf_patternSum (h : Word) {k : Nat} (hk : k ≤ 128) :
    polyOf (patternSum h k) =
      ((∑ i ∈ Finset.range k, if h.getLsbD i then X ^ i else 0) * X ^ 128) %ₘ fieldPolynomial := by
  induction k with
  | zero => simp [patternSum]
  | succ k ih =>
    rw [patternSum_succ, polyOf_xor, ih (by omega), Finset.sum_range_succ, add_mul, add_modByMonic]
    cases h.getLsbD k with
    | false => simp
    | true =>
      rw [if_pos rfl, if_pos rfl, pattern_eq_reduce_twoPow (by omega), polyOf_reduce, polyOf_twoPow (by omega)]

theorem reduce_eq_reducePerBit (h : Word) : reduce h = reducePerBit h := by
  apply polyOf_injective
  rw [polyOf_reduce, reducePerBit, polyOf_patternSum h le_rfl, polyOf]

/-- Settles O37: the per-bit form by the sum of the bits' contributions, the closed form by two folds, the written
patterns by evaluation. -/
theorem reductionForms : Obligations.ReductionForms :=
  ⟨fun h => ⟨reduce_eq_reducePerBit h, reduce_eq_reduceClosed h, high128_closedT h,
      fun _ => high128_closedT_getLsbD h⟩,
    fun _ => pattern_eq_pmod, fun _ => pattern_of_le, by decide +kernel, by decide +kernel, by decide +kernel,
    by decide +kernel, by decide +kernel, by decide +kernel, pattern_127⟩

/-- Bit 127 adds T[127] to what the other bits contribute. -/
theorem reduce_eq_patternSum_xor (h : Word) :
    reduce h = patternSum h 127 ^^^ if h.getLsbD 127 then pattern 127 else 0#128 :=
  reduce_eq_reducePerBit h

theorem reduce_of_bit127_clear {h : Word} (clear : h.getLsbD 127 = false) : reduce h = patternSum h 127 := by
  rw [reduce_eq_patternSum_xor, clear, if_neg Bool.false_ne_true, BitVec.xor_zero]

theorem reduce_of_bit127_set {h : Word} (top : h.getLsbD 127 = true) :
    reduce h = patternSum h 127 ^^^ 0x80000000000000000000000000002049#128 := by
  rw [reduce_eq_patternSum_xor, top, if_pos rfl, pattern_127]

theorem reduce_ne_patternSum {h : Word} (top : h.getLsbD 127 = true) : reduce h ≠ patternSum h 127 := by
  rw [reduce_of_bit127_set top, ← BitVec.xor_zero (x := patternSum h 127), BitVec.xor_assoc, Ne, BitVec.xor_right_inj]
  decide

/-- Settles O38: the two cases of bit 127, which no product's overflow has set; the four words are computed. -/
theorem reductionOfBit127 : Obligations.ReductionOfBit127 :=
  ⟨fun _ top => ⟨reduce_of_bit127_set top, reduce_ne_patternSum top⟩, fun _ => reduce_of_bit127_clear,
    by decide +kernel, by decide +kernel, by decide +kernel, by decide +kernel,
    fun a b => reduce_of_bit127_clear (high128_product_getLsbD_127 a b)⟩

end Sys2Proof.Machine
end

section
/-! Proofs of the family 70_reset_and_hazards. What a run of host and core slots does, told without the schedule, and
what the block carries from the issue of a command to the reads of its result. -/

namespace Sys2Proof.Machine

/-! ## Reset (70_reset_and_hazards.md R115) -/

theorem step_reset {s : State} {rest : List Slot} (h : s.schedule = .reset :: rest) :
    step s = .next ({ s with schedule := rest } : State).applyReset := by
  rw [step, State.nextSlot_cons h, State.dropSlot_cons h]

/-- Settles O15: the step is `applyReset`, whose fields are those of the reset state. -/
theorem resetClearsEverything : Obligations.ResetClearsEverything :=
  ⟨fun _ _ h => ⟨_, step_reset h, rfl, rfl, rfl, rfl, rfl, rfl, rfl, rfl⟩, rfl, rfl, rfl, rfl, rfl, rfl, rfl, rfl⟩

/-! ## The schedule is the environment's: no event of the block reads it -/

/-- While a command is pending every write to CMD, in either format, is an overrun (R69). -/
theorem exec_of_writesCmd_busy {i : Instr} {s : State} (writes : WritesCmd i) (busy : s.busy = true) :
    exec i s = .next s.flagOverrun := by
  cases i with
  | regwrCmd c => exact execRegwrCmd_busy c busy
  | nop | enc | dec | gmul | clmul | red => exact congrArg Host.Outcome.next (State.command_busy _ busy)
  | _ => exact writes.elim

theorem exec_withSchedule {i : Instr} {s t : State} (h : exec i s = .next t) (rest : List Slot) :
    exec i { s with schedule := rest } = .next { t with schedule := rest } := by
  obtain ⟨n, rfl, rfl⟩ | ⟨w, rfl, rfl⟩ | ⟨w, rfl, rfl⟩ | ⟨w, rfl, rfl⟩ | ⟨ignored, rfl⟩ | ⟨busy, writes, rfl⟩ |
    ⟨idle, rfl | ⟨c, rfl, hv⟩, rfl⟩ | ⟨idle, ⟨c, rfl, hv⟩, rfl⟩ | ⟨idle, op, rfl | ⟨c, rfl, hv⟩, rfl⟩ := exec_cases h
  iterate 4 · rfl
  · exact exec_of_ignored ignored _
  · exact exec_of_writesCmd_busy writes busy
  · exact congrArg Host.Outcome.next (State.command_idle id idle)
  · exact execRegwrCmd_nop idle hv
  · exact execRegwrCmd_illegal idle hv
  · exact (exec_instr op).trans (congrArg Host.Outcome.next (State.command_idle _ idle))
  · exact execRegwrCmd_issue idle hv

theorem State.complete_withSchedule (s : State) (rest : List Slot) :
    ({ s with schedule := rest } : State).complete = { s.complete with schedule := rest } := by
  cases hp : s.pend with
  | none => simp [State.complete, hp]
  | some p => simp [State.complete, hp]

/-! ## Runs of host and core slots (40_command_interface.md R62) -/

/-- The events of `slots`, none of them a reset, take `s` to `t`; the schedule of neither state plays a part. -/
inductive Runs : List Slot → State → State → Prop where
  | nil (s : State) : Runs [] s s
  | host {w : TxnWord} {slots : List Slot} {s t u : State} (moves : exec (decodeTxn w) s = .next t)
      (after : Runs slots t u) : Runs (.host w :: slots) s u
  | core {slots : List Slot} {s u : State} (after : Runs slots s.complete u) : Runs (.core :: slots) s u

/-- `Runs` is about the machine: with the slots first on the schedule, the machine makes that run. -/
theorem Runs.runSteps_eq {slots : List Slot} {s t : State} (h : Runs slots s t) (rest : List Slot) :
    runSteps slots.length { s with schedule := slots ++ rest } = .next { t with schedule := rest } := by
  induction h with
  | nil s => rfl
  | @host w slots s t u moves _ ih =>
    have first : step { s with schedule := .host w :: slots ++ rest } = .next { t with schedule := slots ++ rest } :=
      (step_host rfl).trans (exec_withSchedule moves _)
    exact (runSteps_succ first).trans ih
  | @core slots s u _ ih =>
    have first : step { s with schedule := .core :: slots ++ rest } =
        .next { s.complete with schedule := slots ++ rest } :=
      (step_core rfl).trans (congrArg Host.Outcome.next (s.complete_withSchedule _))
    exact (runSteps_succ first).trans ih

theorem Runs.append {first second : List Slot} {s t u : State} (h : Runs first s t) (h' : Runs second t u) :
    Runs (first ++ second) s u := by
  induction h with
  | nil => exact h'
  | host moves _ ih => exact .host moves (ih h')
  | core _ ih => exact .core (ih h')

/-- One write by the host, by the register number written. -/
theorem Runs.write {n : RegNum} {w : Word} {s t : State} (h : exec (decodeWrite n w) s = .next t) :
    Runs [.host (writeTxn n w)] s t :=
  .host ((congrArg (exec · s) (decodeTxn_writeTxn n w)).trans h) (.nil t)

/-- One read by the host. -/
theorem Runs.read (n : RegNum) (s : State) : Runs [.host (readTxn n)] s (s.respond (s.readReg n)) :=
  .host (congrArg (exec · s) (decodeTxn_readTxn n)) (.nil _)

/-- The write that issues a command (R70). -/
theorem Runs.issue (op : Op) {s : State} (idle : s.busy = false) :
    Runs [.host (writeTxn 4#4 op.word)] s (s.issue op) :=
  .write (execRegwrCmd_issue idle (verdict_word op))

/-- Core slots leave the host's record, and with nothing pending they leave everything. -/
theorem exists_runs_cores (n : Nat) (s : State) :
    ∃ t, Runs (List.replicate n .core) s t ∧ t.reads = s.reads ∧ (s.pend = none → t = s) := by
  induction n generalizing s with
  | zero => exact ⟨s, .nil s, rfl, fun _ => rfl⟩
  | succ n ih =>
    obtain ⟨t, run, reads, same⟩ := ih s.complete
    exact ⟨t, .core run, reads.trans s.complete_reads,
      fun empty => (same s.complete_pend).trans (State.complete_none empty)⟩

theorem runs_cores_of_pend_none (n : Nat) {s : State} (empty : s.pend = none) : Runs (List.replicate n .core) s s := by
  obtain ⟨t, run, -, same⟩ := exists_runs_cores n s
  exact same empty ▸ run

/-! ## Back-to-back commands (70_reset_and_hazards.md R120) -/

/-- Settles O56: the second CMD write finds BUSY = 1 and is an overrun, whatever its word, which bit 2 of STATUS tells;
after a completion it finds BUSY = 0 and issues. -/
theorem backToBackCommands : Obligations.BackToBackCommands := by
  refine fun s op op' rest idle => ⟨fun c => ?_, ?_⟩
  · have overrun : Runs [.host (writeTxn 4#4 c)] (s.issue op) (s.issue op).flagOverrun :=
      .write (execRegwrCmd_busy c rfl)
    have run := ((Runs.issue op idle).append overrun).append (.read 5#4 _)
    obtain ⟨-, -, ovr⟩ := (s.issue op).flagOverrun.status_getLsbD_flags
    exact ⟨_, (s.issue op).flagOverrun.status, run.runSteps_eq rest, rfl, rfl, rfl, rfl, ovr⟩
  · have run := ((Runs.issue op idle).append (.core (.nil _))).append (.issue op' rfl)
    exact ⟨_, run.runSteps_eq rest, rfl, rfl⟩

/-! ## From the issue of a command to the reads of its result (R121, R123) -/

/-- The command `p` is pending, or RES and RESH hold its result and nothing is pending. -/
def State.Carries (p : Pending) (s : State) : Prop :=
  (s.pend = some p ∧ s.busy = true) ∨ (s.pend = none ∧ s.busy = false ∧ (s.res, s.resh) = result p.op p.a p.b)

theorem State.Carries.of_idle {p : Pending} {s : State} (h : s.Carries p) (idle : s.busy = false) :
    s.pend = none ∧ (s.res, s.resh) = result p.op p.a p.b := by
  obtain ⟨-, busy⟩ | ⟨pend, -, results⟩ := h
  · rw [idle] at busy; cases busy
  · exact ⟨pend, results⟩

theorem State.Carries.complete {p : Pending} {s : State} (h : s.Carries p) : s.complete.Carries p := by
  obtain ⟨pend, -⟩ | ⟨empty, done⟩ := h
  · rw [State.complete_some pend]
    exact .inr ⟨rfl, rfl, rfl⟩
  · rw [State.complete_none empty]
    exact .inr ⟨empty, done⟩

/-- An instruction that does not write CMD leaves the command and its result alone, and at most adds to the words read. -/
theorem exec_of_not_writesCmd {i : Instr} (h : ¬ WritesCmd i) (s : State) :
    ∃ t, exec i s = .next t ∧ s.reads <+: t.reads ∧ ∀ p, s.Carries p → t.Carries p := by
  cases i with
  | regrd n => exact ⟨_, rfl, ⟨[_], rfl⟩, fun _ => id⟩
  | regwrOpa _ | regwrOpb _ | regwrStatus _ | regwrRes _ | regwrResh _ | regwrRsv67 _ _ | regwrRsv815 _ _ =>
    exact ⟨_, rfl, ⟨[], List.append_nil _⟩, fun _ => id⟩
  | _ => exact absurd trivial h

theorem not_writesCmd_of_writesNoCommand {w : TxnWord} (h : (Slot.host w).writesNoCommand = true) :
    ¬ WritesCmd (decodeTxn w) := by
  intro writes
  obtain ⟨c, hc⟩ := decodeTxn_writesCmd writes
  simp [Slot.writesNoCommand, hc] at h

/-- Slots that write no command keep the command carried, whatever they interleave. -/
theorem exists_runs_of_writesNoCommand {p : Pending} {slots : List Slot} {s : State}
    (quiet : slots.all Slot.writesNoCommand = true) (h : s.Carries p) :
    ∃ t, Runs slots s t ∧ s.reads <+: t.reads ∧ t.Carries p := by
  induction slots generalizing s with
  | nil => exact ⟨s, .nil s, ⟨[], List.append_nil _⟩, h⟩
  | cons slot slots ih =>
    rw [List.all_cons, Bool.and_eq_true] at quiet
    obtain ⟨quiet, quietAfter⟩ := quiet
    cases slot with
    | reset => cases quiet
    | core =>
      obtain ⟨t, run, reads, carries⟩ := ih quietAfter h.complete
      exact ⟨t, .core run, s.complete_reads ▸ reads, carries⟩
    | host w =>
      obtain ⟨t, moves, reads, keeps⟩ := exec_of_not_writesCmd (not_writesCmd_of_writesNoCommand quiet) s
      obtain ⟨u, run, reads', carries⟩ := ih quietAfter (keeps p h)
      exact ⟨u, .host moves run, reads.trans reads', carries⟩

/-- A read of a register after any number of core slots: with nothing pending it answers what the register holds. -/
theorem exists_runs_cores_read (n : Nat) (r : RegNum) (s : State) :
    ∃ t v, Runs (List.replicate n .core ++ [.host (readTxn r)]) s t ∧ t.reads = s.reads ++ [v] ∧
      (s.pend = none → v = s.readReg r ∧ t = s.respond v) := by
  obtain ⟨t, run, reads, same⟩ := exists_runs_cores n s
  refine ⟨_, t.readReg r, run.append (.read r t), by rw [State.respond_reads, reads], fun empty => ?_⟩
  rw [same empty]
  exact ⟨rfl, rfl⟩

/-- Settles O58: with nothing pending the slots up to the issue leave only the operands written; from there the block
carries the command (`State.Carries`), so BUSY = 0 means that RES and RESH hold its result and nothing is pending, and
the core's slots change nothing more. -/
theorem hostDiscipline : Obligations.HostDiscipline := by
  intro s op a b high n₁ n₂ n₃ n₄ n₅ waiting rest inv idle quiet cores writeB readHigh slots
  have empty : s.pend = none := by simpa [idle] using inv.1
  have operandA : Runs [.host (writeTxn 0#4 a)] s { s with opa := a } := .write rfl
  have operandB : Runs writeB { s with opa := a } { s with opa := a, opb := b.getD s.opb } := by
    cases b with
    | none => exact .nil _
    | some w => exact (Runs.write rfl).append (runs_cores_of_pend_none n₃ empty)
  have issued := ((((runs_cores_of_pend_none n₁ empty).append operandA).append
    (runs_cores_of_pend_none n₂ empty)).append operandB).append (.issue op idle)
  obtain ⟨t, waited, ⟨earlier, reads⟩, carries⟩ := exists_runs_of_writesNoCommand (p := ⟨op, a, b.getD s.opb⟩)
    (s := ({ s with opa := a, opb := b.getD s.opb } : State).issue op) quiet (.inl ⟨rfl, rfl⟩)
  obtain ⟨u, lo, readLo, readsLo, lo_eq⟩ := exists_runs_cores_read n₄ 2#4 (t.respond t.status)
  obtain ⟨v, hi, readHi, readsHi, hi_eq⟩ : ∃ v hi, Runs readHigh u v ∧
      v.reads = u.reads ++ (if high then [hi] else []) ∧ (u.pend = none → hi = u.resh) := by
    cases high with
    | false => exact ⟨u, u.resh, .nil u, (List.append_nil _).symm, fun _ => rfl⟩
    | true =>
      obtain ⟨v, hi, run, reads, hi_eq⟩ := exists_runs_cores_read n₅ 3#4 u
      exact ⟨v, hi, run, reads, fun empty => (hi_eq empty).1⟩
  have run : Runs slots s v := by
    have := (((issued.append waited).append (.read 5#4 t)).append readLo).append readHi
    simpa only [slots, cores, List.append_assoc] using this
  refine ⟨_, earlier, t.status, lo, hi, run.runSteps_eq rest, ?_, fun ready => ?_⟩
  · simp [readsHi, readsLo, ← reads]
  · rw [t.status_getLsbD_flags.1] at ready
    obtain ⟨pend, results⟩ := carries.of_idle ready
    obtain ⟨rfl, rfl⟩ := lo_eq pend
    rw [hi_eq pend]
    exact results

end Sys2Proof.Machine
end

section
/-! Proofs of the family other, its first part: the invariant, the round trips between words and instructions, the rows
of the opcode table, and the step that runs a word. -/

namespace Sys2Proof.Machine

/-! ## The invariant, step by step (10_state.md R29) -/

/-- Settles O60: the induction step of R29 is `step_keeps_invAfter`. -/
theorem stepKeepsResultHistory : Obligations.StepKeepsResultHistory := fun _ _ _ => step_keeps_invAfter

/-- Settles O47: the invariant is `State.InvAfter` of a completion of CLMUL, whose clause on the history asks
nothing. -/
theorem stepKeepsInvariant : Obligations.StepKeepsInvariant := fun _ _ inv h =>
  (step_keeps_invAfter (done := some .clmul) ⟨inv, fun other => absurd rfl other⟩ h).1

/-- Settles O48: the state after reset is what the reset event leaves. -/
theorem resetMeetsInvariant : Obligations.ResetMeetsInvariant := reset_invAfter

/-! ## The decoder and the encoder (30_encoding.md R48 to R53) -/

/-- Settles O1: instruction by instruction, the round trips of `Laws.RoundTrip`. -/
theorem decodeOfEncode : Obligations.DecodeOfEncode := by
  intro i
  cases i with
  | regrd addr => exact Laws.RoundTrip.regrd addr
  | regwrOpa data => exact Laws.RoundTrip.regwrOpa data
  | regwrOpb data => exact Laws.RoundTrip.regwrOpb data
  | regwrRes data => exact Laws.RoundTrip.regwrRes data
  | regwrResh data => exact Laws.RoundTrip.regwrResh data
  | regwrCmd data => exact Laws.RoundTrip.regwrCmd data
  | regwrStatus data => exact Laws.RoundTrip.regwrStatus data
  | regwrRsv67 addr data => exact Laws.RoundTrip.regwrRsv67 addr data
  | regwrRsv815 addr data => exact Laws.RoundTrip.regwrRsv815 addr data
  | nop => exact Laws.RoundTrip.nop
  | enc => exact Laws.RoundTrip.enc
  | dec => exact Laws.RoundTrip.dec
  | gmul => exact Laws.RoundTrip.gmul
  | clmul => exact Laws.RoundTrip.clmul
  | red => exact Laws.RoundTrip.red

/-- The rows of the register map: each number below 8 alone, and the upper half as one (20_memory.md R40). -/
theorem regNum_cases (n : RegNum) : n = 0#4 ∨ n = 1#4 ∨ n = 2#4 ∨ n = 3#4 ∨ n = 4#4 ∨ n = 5#4 ∨ n = 6#4 ∨ n = 7#4 ∨
    n.getLsbD 3 = true := by
  revert n; decide

theorem decodeWrite_of_upper {n : RegNum} (w : Word) (upper : n.getLsbD 3 = true) :
    decodeWrite n w = .regwrRsv815 n w := by
  have decoded := Laws.RoundTrip.regwrRsv815 n w upper
  rw [encode, decode, decodeTxn_writeTxn] at decoded
  exact Except.ok.inj decoded

/-- A write decodes to an instruction of the encoding, and that one encodes back to the write. -/
theorem encode_decodeWrite (n : RegNum) (w : Word) :
    (decodeWrite n w).wf = true ∧ encode (decodeWrite n w) = .txn (writeTxn n w) := by
  obtain rfl | rfl | rfl | rfl | rfl | rfl | rfl | rfl | upper := regNum_cases n
  iterate 8 · exact ⟨rfl, rfl⟩
  · rw [decodeWrite_of_upper w upper]
    exact ⟨upper, rfl⟩

/-- A transaction with WE = 1 is the write of its two fields (R49). -/
theorem writeTxn_txnAddr_txnData {w : TxnWord} (we : w.getLsbD 132 = true) : writeTxn (txnAddr w) (txnData w) = w := by
  refine BitVec.eq_of_getLsbD_eq fun i hi => ?_
  rw [getLsbD_writeTxn]
  split
  · next data => simp [txnData, data]
  · split
    · next data addr => simp [txnAddr, show i - 128 < 4 by omega, show 128 + (i - 128) = i by omega]
    · obtain rfl : i = 132 := by omega
      simp [we]

theorem getLsbD_readTxn (n : RegNum) (i : Nat) :
    (readTxn n).getLsbD i = (decide (128 ≤ i ∧ i < 132) && n.getLsbD (i - 128)) := by
  have word : (readTxn n).getLsbD i = BitVec.getLsbD (w := 1 + 4 + 128) (0#1 ++ n ++ 0#128) i := rfl
  rw [word, BitVec.getLsbD_append, BitVec.getLsbD_append]
  by_cases data : i < 128
  · simp [data, Nat.not_le.2 data]
  · by_cases addr : i < 132
    · simp [data, addr, Nat.le_of_not_lt data, show i - 128 < 4 by omega]
    · simp [data, addr, show ¬ i - 128 < 4 by omega]

/-- What a read keeps of a transaction: its ADDR, with the other fields zero (R49). -/
theorem readTxn_txnAddr (w : TxnWord) : readTxn (txnAddr w) = w &&& readTxn 15#4 := by
  refine BitVec.eq_of_getLsbD_eq fun i hi => ?_
  rw [BitVec.getLsbD_and, getLsbD_readTxn, getLsbD_readTxn]
  by_cases addr : 128 ≤ i ∧ i < 132
  · have bit : (15#4).getLsbD (i - 128) = true := by
      obtain h | h | h | h : i - 128 = 0 ∨ i - 128 = 1 ∨ i - 128 = 2 ∨ i - 128 = 3 := by omega
      all_goals rw [h]; decide
    simp [txnAddr, addr, bit, show i - 128 < 4 by omega]
  · simp [addr]

/-- Settles O2: a write is the word of its fields (`writeTxn_txnAddr_txnData`) and decodes by them; a read keeps its
ADDR. -/
theorem encodeOfDecodedTransaction : Obligations.EncodeOfDecodedTransaction := by
  intro w
  obtain ⟨wf, encoded⟩ := encode_decodeWrite (txnAddr w) (txnData w)
  refine ⟨?_, fun we => ?_, fun we => ⟨decodeTxn_of_read we, ?_⟩⟩
  · cases we : w.getLsbD 132 with
    | false => rw [decodeTxn_of_read we]; rfl
    | true => rwa [decodeTxn_of_write we]
  · rw [decodeTxn_of_write we, encoded, writeTxn_txnAddr_txnData we]
  · rw [decodeTxn_of_read we]
    exact congrArg Code.txn (readTxn_txnAddr w)

/-! ## The opcode table (30_encoding.md sections 1 to 3) -/

/-- The five bits that a TXN row reads: WE and ADDR. -/
def txnHeader (w : TxnWord) : BitVec 5 := w.extractLsb' 128 5

theorem txnHeader_append_txnData (w : TxnWord) : txnHeader w ++ txnData w = w := BitVec.extractLsb'_append_extractLsb'

/-- No TXN row reads DATA. -/
theorem mask_of_mem_txnRows {r : Row 133} (h : r ∈ txnRows) : r.mask = txnHeader r.mask ++ 0#128 := by
  revert r; decide

theorem txnHeader_append (h : BitVec 5) (d : Word) : txnHeader (h ++ d) = h := by
  refine BitVec.eq_of_getLsbD_eq fun i hi => ?_
  rw [txnHeader, BitVec.getLsbD_extractLsb', BitVec.getLsbD_append]
  simp [hi]

theorem selects_txnHeader {r : Row 133} (h : r ∈ txnRows) (w : TxnWord) :
    r.selects (txnHeader w ++ 0#128) = r.selects w := by
  have masked (d : Word) : (txnHeader w ++ d) &&& r.mask = (txnHeader w &&& txnHeader r.mask) ++ 0#128 := by
    rw [mask_of_mem_txnRows h, BitVec.and_append, BitVec.and_zero, txnHeader_append]
  have same : w &&& r.mask = (txnHeader w &&& txnHeader r.mask) ++ 0#128 := by
    rw [← masked (txnData w), txnHeader_append_txnData]
  rw [Row.selects, Row.selects, masked, same]

theorem mnemonic_decodeWrite (n : RegNum) (w u : Word) : (decodeWrite n w).mnemonic = (decodeWrite n u).mnemonic := by
  obtain rfl | rfl | rfl | rfl | rfl | rfl | rfl | rfl | upper := regNum_cases n
  iterate 8 · rfl
  · rw [decodeWrite_of_upper w upper, decodeWrite_of_upper u upper]
    rfl

theorem txnWe_eq_txnHeader (w : TxnWord) : txnWe w = (txnHeader w).getLsbD 4 := by
  simp [txnWe_eq_getLsbD, txnHeader]

theorem txnAddr_eq_txnHeader (w : TxnWord) : txnAddr w = (txnHeader w).extractLsb' 0 4 := by
  refine BitVec.eq_of_getLsbD_eq fun i hi => ?_
  simp [txnAddr, txnHeader, hi, show i < 5 by omega]

/-- Nor does the mnemonic of a transaction depend on DATA. -/
theorem mnemonic_decodeTxn_txnHeader (w : TxnWord) :
    (decodeTxn (txnHeader w ++ 0#128)).mnemonic = (decodeTxn w).mnemonic := by
  have we : txnWe (txnHeader w ++ 0#128) = txnWe w := by rw [txnWe_eq_txnHeader, txnHeader_append, txnWe_eq_txnHeader]
  have addr : txnAddr (txnHeader w ++ 0#128) = txnAddr w := by
    rw [txnAddr_eq_txnHeader, txnHeader_append, txnAddr_eq_txnHeader]
  rw [decodeTxn, decodeTxn, we, addr]
  cases txnWe w with
  | false => rfl
  | true => exact mnemonic_decodeWrite (txnAddr w) _ _

/-- The table and the decoder agree on each of the 32 headers. -/
theorem txnRows_filter_header (h : BitVec 5) :
    (txnRows.filter fun r => r.selects (h ++ 0#128)).map (fun r => r.mnemonic) =
      [(decodeTxn (h ++ 0#128)).mnemonic] := by
  revert h; decide +kernel

/-- A command word's row is one with the word as its pattern. -/
theorem pattern_of_selects {r : Row 128} {c : Word} (h : r ∈ cmdwRows) (selected : r.selects c = true) :
    r.pattern = c := by
  have full : ∀ r ∈ cmdwRows, r.mask = BitVec.allOnes 128 := by decide
  rw [Row.selects, full r h, BitVec.and_allOnes, beq_iff_eq] at selected
  exact selected.symm

theorem cmdwRows_filter_of_illegal {c : Word} (illegal : verdict c = .illegal) :
    cmdwRows.filter (fun r => r.selects c) = [] := by
  have legal : ∀ r ∈ cmdwRows, verdict r.pattern ≠ .illegal := by decide
  refine List.filter_eq_nil_iff.2 fun r h selected => legal r h ?_
  rw [pattern_of_selects h selected, illegal]

/-- Settles O3: a TXN row and the decoder's mnemonic read the header alone, which has 32 values; a command word is
illegal, zero or the word of an operation (`verdict_cases`). -/
theorem opcodeTableRowsDecode : Obligations.OpcodeTableRowsDecode := by
  refine ⟨fun w => ?_, fun c => ?_⟩
  · rw [← mnemonic_decodeTxn_txnHeader w, ← txnRows_filter_header]
    exact congrArg _ (List.filter_congr fun r h => (selects_txnHeader h w).symm)
  · obtain ⟨illegal, -⟩ | ⟨-, rfl⟩ | ⟨op, -, rfl⟩ := verdict_cases c
    · rw [cmdwRows_filter_of_illegal illegal, decodeCmdw, illegal]
      rfl
    · decide +kernel
    · cases op <;> decide +kernel

/-- Settles O5: the decoder runs on each word. -/
theorem writtenOutWordsDecode : Obligations.WrittenOutWordsDecode := by
  refine ⟨?_, ?_, ?_, ?_, ?_, ?_, ?_⟩
  all_goals decide +kernel

/-! ## A step runs the instruction of its word (40_command_interface.md R61, R63) -/

/-- Settles O7: a host slot first on the schedule is the one that the step takes. -/
theorem stepRunsDecodedTransaction : Obligations.StepRunsDecodedTransaction := fun _ _ _ => step_host

/-- The CMD write of a legal word is the command that the word names (R58, R69). -/
theorem exec_regwrCmd_of_legal {c : Word} {i : Instr} (h : decodeCmdw c = .ok i) (s : State) :
    exec (.regwrCmd c) s = exec i s := by
  cases busy : s.busy with
  | true =>
    have writes : WritesCmd i := by
      have word := encode_of_decodeCmdw h
      cases i with
      | nop | enc | dec | gmul | clmul | red => trivial
      | _ => cases word
    rw [exec_of_writesCmd_busy writes busy, exec_of_writesCmd_busy (i := .regwrCmd c) trivial busy]
  | false =>
    obtain ⟨hv, -⟩ | ⟨hv, -⟩ | ⟨op, hv, -⟩ := verdict_cases c
    · rw [decodeCmdw, hv] at h; cases h
    · rw [decodeCmdw, hv] at h; cases h
      exact (execRegwrCmd_nop busy hv).trans (congrArg Host.Outcome.next (State.command_idle id busy).symm)
    · rw [decodeCmdw, hv] at h; cases h
      rw [exec_instr, State.command_idle _ busy]
      exact execRegwrCmd_issue busy hv

/-- Settles O8: the word on the port is a CMD write, which is the command. -/
theorem stepRunsDecodedCommand : Obligations.StepRunsDecodedCommand := by
  intro s c i rest placed legal
  rw [step_host placed, decodeTxn_writeTxn]
  exact exec_regwrCmd_of_legal legal _

/-- The two formats that a table word can have (R57). -/
theorem decodeTableWord_eq_some {nbits w : Nat} {i : Instr} (h : decodeTableWord nbits w = some i) :
    (nbits ≤ 128 ∧ decodeCmdw (BitVec.ofNat 128 w) = .ok i) ∨ (128 < nbits ∧ decodeTxn (BitVec.ofNat 133 w) = i) := by
  have decoded : decodeWord nbits w = .ok i := by
    rw [decodeTableWord] at h
    split at h
    · cases h
    · next word => cases h; exact word
  rw [decodeWord, codeOfWord] at decoded
  by_cases short : nbits ≤ 128
  · rw [if_pos short] at decoded
    by_cases fits : w < 2 ^ 128
    · rw [if_pos fits] at decoded; exact .inl ⟨short, decoded⟩
    · rw [if_neg fits] at decoded; cases decoded
  · rw [if_neg short] at decoded
    by_cases long : nbits ≤ 136
    · rw [if_pos long] at decoded
      by_cases fits : w < 2 ^ 133
      · rw [if_pos fits] at decoded; exact .inr ⟨Nat.lt_of_not_le short, Except.ok.inj decoded⟩
      · rw [if_neg fits] at decoded; cases decoded
    · rw [if_neg long] at decoded; cases decoded

theorem step_present (s : State) (w : TxnWord) : step (s.present w) = exec (decodeTxn w) s := step_host rfl

/-- Settles O9: a short word is placed as the CMD write of its command, a long one as it is. -/
theorem placedTableWordRunsNext : Obligations.PlacedTableWordRunsNext := by
  intro s nbits w i h
  rw [State.withFetchWord, step_present, txnOfTableWord]
  obtain ⟨short, decoded⟩ | ⟨long, rfl⟩ := decodeTableWord_eq_some h
  · rw [if_pos short, decodeTxn_writeTxn]
    exact exec_regwrCmd_of_legal decoded s
  · rw [if_neg (Nat.not_le.2 long)]

end Sys2Proof.Machine
end

section
/-! Proofs of the family other, its second part. Which event can change each field of the state, and what becomes of a
pending command. -/

namespace Sys2Proof.Machine

/-! ## Every step answers (40_command_interface.md R61, R63) -/

theorem exec_total (i : Instr) (s : State) : ∃ t, exec i s = .next t := by
  cases i with
  | regwrCmd c =>
    cases busy : s.busy with
    | true => exact ⟨_, execRegwrCmd_busy c busy⟩
    | false =>
      cases hv : verdict c with
      | illegal => exact ⟨_, execRegwrCmd_illegal busy hv⟩
      | nop => exact ⟨_, execRegwrCmd_nop busy hv⟩
      | issue op => exact ⟨_, execRegwrCmd_issue busy hv⟩
  | _ => exact ⟨_, rfl⟩

theorem step_total (s : State) : ∃ t, step s = .next t := by
  unfold step
  split
  · exact ⟨_, rfl⟩
  · exact exec_total _ _
  · exact ⟨_, rfl⟩
  · exact ⟨_, rfl⟩

/-- Settles O11: each arm of `exec` and each slot answers a next state. -/
theorem nothingFaultsOrRefuses : Obligations.NothingFaultsOrRefuses := ⟨exec_total, step_total⟩

/-! ## Commands, idle and busy (R69 to R72) -/

theorem exec_instr_of_idle {s : State} (op : Op) (idle : s.busy = false) : exec op.instr s = .next (s.issue op) := by
  rw [exec_instr, State.command_idle _ idle]

/-- Settles O22: NOP acts as the identity, the others as their issue. -/
theorem commandsWhileIdle : Obligations.CommandsWhileIdle := fun _ idle =>
  ⟨congrArg Host.Outcome.next (State.command_idle id idle), exec_instr_of_idle .enc idle, exec_instr_of_idle .dec idle,
    exec_instr_of_idle .gmul idle, exec_instr_of_idle .clmul idle, exec_instr_of_idle .red idle⟩

/-- Settles O23: the six commands and the CMD write all write CMD. -/
theorem commandsOverrunWhileBusy : Obligations.CommandsOverrunWhileBusy := by
  refine fun s busy => ⟨fun i command => exec_of_writesCmd_busy ?_ busy, fun c => execRegwrCmd_busy c busy⟩
  simp only [List.mem_cons, List.not_mem_nil, or_false] at command
  obtain rfl | rfl | rfl | rfl | rfl | rfl := command
  all_goals trivial

/-! ## Completion, the end of the schedule, and a reset before completion (R73, R75, R76, R117) -/

/-- Settles O12: a core slot is `State.complete`, whose two cases are those of the latch. -/
theorem completionWritesResult : Obligations.CompletionWritesResult := by
  refine ⟨fun s op a b rest slot pend => ?_, fun s rest slot empty => ?_, by decide +kernel⟩
  · exact (step_core slot).trans (congrArg Host.Outcome.next (State.complete_some (p := ⟨op, a, b⟩) pend))
  · exact (step_core slot).trans (congrArg Host.Outcome.next (State.complete_none empty))

theorem State.dropSlot_nil {s : State} (h : s.schedule = []) : s.dropSlot = s := by
  rw [State.dropSlot, h, List.tail_nil, ← h]

/-- With no slot left the core goes on alone. -/
theorem step_nil {s : State} (h : s.schedule = []) : step s = .next s.complete := by
  cases pend : s.pend with
  | none => rw [step, State.nextSlot_nil h, pend, State.complete_none pend]; rfl
  | some p => rw [step, State.nextSlot_nil h, pend, State.dropSlot_nil h]; rfl

/-- Settles O14: with the schedule used up a step is `State.complete`. -/
theorem hostStopsThenBlockSettles : Obligations.HostStopsThenBlockSettles := fun s done =>
  ⟨fun p pend => by rw [step_nil done, State.complete_some pend],
    fun empty => by rw [step_nil done, State.complete_none empty]⟩

/-- Settles O16: the reset event empties the latch, so the core slot that follows passes. -/
theorem resetDiscardsPendingCommand : Obligations.ResetDiscardsPendingCommand := fun _ _ _ _ slots =>
  ⟨_, step_reset slots, (step_core rfl).trans (congrArg Host.Outcome.next (State.complete_none rfl)),
    rfl, rfl, rfl, rfl, rfl, rfl⟩

/-! ## What an instruction can change, field by field -/

section
variable {i : Instr} {s t : State}

/-- No instruction writes RES or RESH, and none touches the schedule (R14, R15). -/
theorem exec_keeps_results (h : exec i s = .next t) : t.res = s.res ∧ t.resh = s.resh ∧ t.schedule = s.schedule := by
  obtain ⟨n, -, rfl⟩ | ⟨w, -, rfl⟩ | ⟨w, -, rfl⟩ | ⟨w, -, rfl⟩ | ⟨-, rfl⟩ | ⟨-, -, rfl⟩ | ⟨-, -, rfl⟩ | ⟨-, -, rfl⟩ |
    ⟨-, op, -, rfl⟩ := exec_cases h
  all_goals exact ⟨rfl, rfl, rfl⟩

theorem exec_changes_operands (h : exec i s = .next t) :
    (t.opa = s.opa ∨ ∃ d, i = .regwrOpa d ∧ t.opa = d) ∧ (t.opb = s.opb ∨ ∃ d, i = .regwrOpb d ∧ t.opb = d) := by
  obtain ⟨n, -, rfl⟩ | ⟨w, write, rfl⟩ | ⟨w, write, rfl⟩ | ⟨w, -, rfl⟩ | ⟨-, rfl⟩ | ⟨-, -, rfl⟩ | ⟨-, -, rfl⟩ |
    ⟨-, -, rfl⟩ | ⟨-, op, -, rfl⟩ := exec_cases h
  · exact ⟨.inl rfl, .inl rfl⟩
  · exact ⟨.inr ⟨w, write, rfl⟩, .inl rfl⟩
  · exact ⟨.inl rfl, .inr ⟨w, write, rfl⟩⟩
  iterate 6 · exact ⟨.inl rfl, .inl rfl⟩

theorem exec_changes_ill (h : exec i s = .next t) :
    t.ill = s.ill ∨ (s.busy = false ∧ (∃ c, i = .regwrCmd c ∧ verdict c = .illegal) ∧ t.ill = true) ∨
      ∃ d, i = .regwrStatus d ∧ t.ill = (s.ill && !d.getLsbD 1) := by
  obtain ⟨n, -, rfl⟩ | ⟨w, -, rfl⟩ | ⟨w, -, rfl⟩ | ⟨w, write, rfl⟩ | ⟨-, rfl⟩ | ⟨-, -, rfl⟩ | ⟨-, -, rfl⟩ |
    ⟨idle, illegal, rfl⟩ | ⟨-, op, -, rfl⟩ := exec_cases h
  iterate 3 · exact .inl rfl
  · exact .inr (.inr ⟨w, write, rfl⟩)
  iterate 3 · exact .inl rfl
  · exact .inr (.inl ⟨idle, illegal, rfl⟩)
  · exact .inl rfl

theorem exec_changes_ovr (h : exec i s = .next t) :
    t.ovr = s.ovr ∨ (s.busy = true ∧ WritesCmd i ∧ t.ovr = true) ∨
      ∃ d, i = .regwrStatus d ∧ t.ovr = (s.ovr && !d.getLsbD 2) := by
  obtain ⟨n, -, rfl⟩ | ⟨w, -, rfl⟩ | ⟨w, -, rfl⟩ | ⟨w, write, rfl⟩ | ⟨-, rfl⟩ | ⟨busy, writes, rfl⟩ | ⟨-, -, rfl⟩ |
    ⟨-, -, rfl⟩ | ⟨-, op, -, rfl⟩ := exec_cases h
  iterate 3 · exact .inl rfl
  · exact .inr (.inr ⟨w, write, rfl⟩)
  · exact .inl rfl
  · exact .inr (.inl ⟨busy, writes, rfl⟩)
  iterate 3 · exact .inl rfl

theorem verdict_eq_issue_iff {c : Word} {op : Op} : verdict c = .issue op ↔ c = op.word := by
  refine ⟨fun issue => ?_, fun word => word ▸ verdict_word op⟩
  obtain ⟨hv, -⟩ | ⟨hv, -⟩ | ⟨op', hv, word⟩ := verdict_cases c
  · rw [hv] at issue; cases issue
  · rw [hv] at issue; cases issue
  · rw [hv] at issue; cases issue; exact word

/-- A transaction leaves BUSY and the latch alone, or it is the CMD write that issues a command (R20, R24). -/
theorem exec_decodeTxn_changes_latch {w : TxnWord} (h : exec (decodeTxn w) s = .next t) :
    (t.busy = s.busy ∧ t.pend = s.pend) ∨
      (s.busy = false ∧ ∃ op : Op, decodeTxn w = .regwrCmd op.word ∧ t = s.issue op) := by
  obtain ⟨n, -, rfl⟩ | ⟨d, -, rfl⟩ | ⟨d, -, rfl⟩ | ⟨d, -, rfl⟩ | ⟨-, rfl⟩ | ⟨-, -, rfl⟩ | ⟨-, -, rfl⟩ | ⟨-, -, rfl⟩ |
    ⟨idle, op, command | ⟨c, write, hv⟩, rfl⟩ := exec_cases h
  iterate 8 · exact .inl ⟨rfl, rfl⟩
  · exact absurd command (decodeTxn_ne_instr w op)
  · exact .inr ⟨idle, op, verdict_eq_issue_iff.1 hv ▸ write, rfl⟩

end

/-! ## What a step can change, field by field -/

/-- A step takes one slot off the schedule. -/
theorem step_schedule {s t : State} (h : step s = .next t) : t.schedule = s.schedule.tail := by
  obtain ⟨hn, rfl⟩ | ⟨w, -, hx⟩ | ⟨-, rfl⟩ | ⟨-, rfl⟩ := step_cases h
  · cases hs : t.schedule with
    | nil => rfl
    | cons slot rest => rw [State.nextSlot_cons hs] at hn; cases hn
  · obtain ⟨-, -, schedule⟩ := exec_keeps_results hx
    exact schedule
  · exact s.dropSlot.complete_schedule
  · rfl

theorem step_changes_results {s t : State} (h : step s = .next t) :
    (t.res = s.res ∧ t.resh = s.resh) ∨ (s.nextSlot = some .core ∧ s.pend ≠ none) ∨ s.nextSlot = some .reset := by
  obtain ⟨-, rfl⟩ | ⟨w, -, hx⟩ | ⟨hn, rfl⟩ | ⟨hn, -⟩ := step_cases h
  · exact .inl ⟨rfl, rfl⟩
  · obtain ⟨res, resh, -⟩ := exec_keeps_results hx
    exact .inl ⟨res, resh⟩
  · by_cases empty : s.pend = none
    · rw [State.complete_none (s := s.dropSlot) empty]
      exact .inl ⟨rfl, rfl⟩
    · exact .inr (.inl ⟨hn, empty⟩)
  · exact .inr (.inr hn)

/-- Settles O50: an instruction keeps the results, and so does a core slot with nothing pending. -/
theorem resultsChangeOnlyAtCompletion : Obligations.ResultsChangeOnlyAtCompletion := by
  intro s t h changed
  obtain ⟨res, resh⟩ | event := step_changes_results h
  · exact changed.elim (absurd res) (absurd resh)
  · exact event

/-- Settles O51: an operand register is written by its own row alone (`exec_changes_operands`), and by a reset. -/
theorem operandsChangeOnlyByHostWrite : Obligations.OperandsChangeOnlyByHostWrite := by
  intro s t h
  obtain ⟨-, rfl⟩ | ⟨w, hn, hx⟩ | ⟨-, rfl⟩ | ⟨hn, -⟩ := step_cases h
  · exact ⟨absurd rfl, absurd rfl⟩
  · obtain ⟨opa, opb⟩ := exec_changes_operands hx
    refine ⟨fun changed => .inr ?_, fun changed => .inr ?_⟩
    · obtain ⟨d, write, word⟩ := opa.resolve_left changed
      exact ⟨w, d, hn, write, word⟩
    · obtain ⟨d, write, word⟩ := opb.resolve_left changed
      exact ⟨w, d, hn, write, word⟩
  · exact ⟨absurd s.dropSlot.complete_opa, absurd s.dropSlot.complete_opb⟩
  · exact ⟨fun _ => .inl hn, fun _ => .inl hn⟩

theorem step_changes_busy {s t : State} (h : step s = .next t) :
    t.busy = s.busy ∨
    (t.busy = true ∧ ∃ w op, s.nextSlot = some (.host w) ∧ decodeTxn w = .regwrCmd (Op.word op) ∧
      t.pend = some ⟨op, s.opa, s.opb⟩) ∨
    (t.busy = false ∧ ((s.nextSlot = some .core ∧ s.pend ≠ none) ∨ s.nextSlot = some .reset)) := by
  obtain ⟨-, rfl⟩ | ⟨w, hn, hx⟩ | ⟨hn, rfl⟩ | ⟨hn, rfl⟩ := step_cases h
  · exact .inl rfl
  · obtain ⟨busy, -⟩ | ⟨-, op, write, rfl⟩ := exec_decodeTxn_changes_latch hx
    · exact .inl busy
    · exact .inr (.inl ⟨rfl, w, op, hn, write, rfl⟩)
  · cases pend : s.pend with
    | none =>
      rw [State.complete_none (s := s.dropSlot) pend]
      exact .inl rfl
    | some p =>
      rw [State.complete_some (s := s.dropSlot) pend]
      exact .inr (.inr ⟨rfl, .inl ⟨hn, Option.some_ne_none p⟩⟩)
  · exact .inr (.inr ⟨rfl, .inr hn⟩)

/-- Settles O52: a transaction changes BUSY by issuing, the core by completing (`step_changes_busy`). -/
theorem busyChangesOnlyByIssueAndCompletion : Obligations.BusyChangesOnlyByIssueAndCompletion := by
  intro s t h
  refine ⟨fun before after => ?_, fun before after => ?_⟩
  · obtain same | ⟨-, w, op, hn, write, pend⟩ | ⟨idle, -⟩ := step_changes_busy h
    · simp [same, before] at after
    · exact ⟨w, op.word, op, hn, write, rfl, pend⟩
    · simp [idle] at after
  · obtain same | ⟨busy, -⟩ | ⟨-, event⟩ := step_changes_busy h
    · simp [same, before] at after
    · simp [busy] at after
    · exact event

/-- ILL changes by an illegal command, a STATUS write or a reset (R21). -/
theorem step_changes_ill {s t : State} (h : step s = .next t) :
    t.ill = s.ill ∨
    (t.ill = true ∧ s.busy = false ∧ ∃ w c, s.nextSlot = some (.host w) ∧ decodeTxn w = .regwrCmd c ∧
      verdict c = .illegal) ∨
    (t.ill = false ∧ s.nextSlot = some .reset) ∨
    (∃ w d, s.nextSlot = some (.host w) ∧ decodeTxn w = .regwrStatus d ∧ t.ill = (s.ill && !d.getLsbD 1)) := by
  obtain ⟨-, rfl⟩ | ⟨w, hn, hx⟩ | ⟨-, rfl⟩ | ⟨hn, rfl⟩ := step_cases h
  · exact .inl rfl
  · obtain same | ⟨idle, ⟨c, write, illegal⟩, set⟩ | ⟨d, write, cleared⟩ := exec_changes_ill hx
    · exact .inl same
    · exact .inr (.inl ⟨set, idle, w, c, hn, write, illegal⟩)
    · exact .inr (.inr (.inr ⟨w, d, hn, write, cleared⟩))
  · exact .inl s.dropSlot.complete_ill
  · exact .inr (.inr (.inl ⟨rfl, hn⟩))

/-- OVR changes by a CMD write while BUSY = 1, a STATUS write or a reset (R22). -/
theorem step_changes_ovr {s t : State} (h : step s = .next t) :
    t.ovr = s.ovr ∨
    (t.ovr = true ∧ s.busy = true ∧ ∃ w c, s.nextSlot = some (.host w) ∧ decodeTxn w = .regwrCmd c) ∨
    (t.ovr = false ∧ s.nextSlot = some .reset) ∨
    (∃ w d, s.nextSlot = some (.host w) ∧ decodeTxn w = .regwrStatus d ∧ t.ovr = (s.ovr && !d.getLsbD 2)) := by
  obtain ⟨-, rfl⟩ | ⟨w, hn, hx⟩ | ⟨-, rfl⟩ | ⟨hn, rfl⟩ := step_cases h
  · exact .inl rfl
  · obtain same | ⟨busy, writes, set⟩ | ⟨d, write, cleared⟩ := exec_changes_ovr hx
    · exact .inl same
    · obtain ⟨c, write⟩ := decodeTxn_writesCmd writes
      exact .inr (.inl ⟨set, busy, w, c, hn, write⟩)
    · exact .inr (.inr (.inr ⟨w, d, hn, write, cleared⟩))
  · exact .inl s.dropSlot.complete_ovr
  · exact .inr (.inr (.inl ⟨rfl, hn⟩))

/-- Settles O24: of the events that change a flag (`step_changes_ill`, `step_changes_ovr`), those that can set it and
those that can clear it. -/
theorem errorFlagsAreSticky : Obligations.ErrorFlagsAreSticky := by
  intro s t h
  refine ⟨fun before after => ?_, fun before after => ?_, fun before after => ?_, fun before after => ?_⟩
  · obtain same | ⟨-, idle, w, c, hn, write, illegal⟩ | ⟨clear, -⟩ | ⟨w, d, -, -, cleared⟩ := step_changes_ill h
    · simp [same, before] at after
    · exact ⟨idle, w, c, hn, write, by rw [decodeCmdw, illegal]⟩
    · simp [clear] at after
    · simp [cleared, before] at after
  · obtain same | ⟨-, busy, event⟩ | ⟨clear, -⟩ | ⟨w, d, -, -, cleared⟩ := step_changes_ovr h
    · simp [same, before] at after
    · exact ⟨busy, event⟩
    · simp [clear] at after
    · simp [cleared, before] at after
  · obtain same | ⟨set, -⟩ | ⟨-, reset⟩ | ⟨w, d, hn, write, cleared⟩ := step_changes_ill h
    · simp [same, before] at after
    · simp [set] at after
    · exact .inl reset
    · exact .inr ⟨w, d, hn, write, by simpa [cleared, before] using after⟩
  · obtain same | ⟨set, -⟩ | ⟨-, reset⟩ | ⟨w, d, hn, write, cleared⟩ := step_changes_ovr h
    · simp [same, before] at after
    · simp [set] at after
    · exact .inl reset
    · exact .inr ⟨w, d, hn, write, by simpa [cleared, before] using after⟩

/-! ## From a pending command to its result (R12, R13, R22, R24, R45, R121) -/

/-- While a command is pending no transaction touches it or the results: it completes or the block is reset. -/
theorem step_of_pending {s t : State} {p : Pending} (pend : s.pend = some p) (busy : s.busy = true)
    (h : step s = .next t) :
    (t.pend = some p ∧ t.busy = true ∧ t.res = s.res ∧ t.resh = s.resh) ∨
    (s.nextSlot = some .core ∧ t.pend = none ∧ t.busy = false ∧ (t.res, t.resh) = result p.op p.a p.b) ∨
    s.nextSlot = some .reset := by
  obtain ⟨-, rfl⟩ | ⟨w, -, hx⟩ | ⟨hn, rfl⟩ | ⟨hn, -⟩ := step_cases h
  · exact .inl ⟨pend, busy, rfl, rfl⟩
  · obtain ⟨res, resh, -⟩ := exec_keeps_results hx
    obtain ⟨busy', pend'⟩ | ⟨idle, -⟩ := exec_decodeTxn_changes_latch hx
    · exact .inl ⟨pend'.trans pend, busy'.trans busy, res, resh⟩
    · simp [busy] at idle
  · rw [State.complete_some (s := s.dropSlot) pend]
    exact .inr (.inl ⟨hn, rfl, rfl, rfl⟩)
  · exact .inr (.inr hn)

/-- Settles O53: by the invariant BUSY = 1 while the command is pending, which `step_of_pending` asks. -/
theorem pendingCommandIsUndisturbed : Obligations.PendingCommandIsUndisturbed := by
  intro s t p inv pend h
  have busy : s.busy = true := by rw [inv.1, pend, Option.isSome_some]
  obtain kept | ⟨hn, empty, -, results⟩ | reset := step_of_pending pend busy h
  · exact .inl kept
  · exact .inr (.inl ⟨hn, empty, results⟩)
  · exact .inr (.inr reset)

/-- With nothing pending, a step that neither resets nor issues keeps the results (R45). -/
theorem step_of_empty {s t : State} (empty : s.pend = none) (idle : s.busy = false)
    (quiet : s.endsResult = false) (h : step s = .next t) :
    t.pend = none ∧ t.busy = false ∧ t.res = s.res ∧ t.resh = s.resh := by
  obtain ⟨-, rfl⟩ | ⟨w, hn, hx⟩ | ⟨hn, rfl⟩ | ⟨hn, -⟩ := step_cases h
  · exact ⟨empty, idle, rfl, rfl⟩
  · obtain ⟨res, resh, -⟩ := exec_keeps_results hx
    obtain ⟨busy', pend'⟩ | ⟨-, op, write, -⟩ := exec_decodeTxn_changes_latch hx
    · exact ⟨pend'.trans empty, busy'.trans idle, res, resh⟩
    · simp [State.endsResult_issue hn write (verdict_word op), idle] at quiet
  · rw [State.complete_none (s := s.dropSlot) empty]
    exact ⟨empty, idle, rfl, rfl⟩
  · simp [State.endsResult_reset hn] at quiet

/-- The block carries the command `p`, and until it completes RES and RESH are as they were before. -/
def State.CarriesSince (p : Pending) (before : Word × Word) (s : State) : Prop :=
  s.Carries p ∧ (s.busy = true → (s.res, s.resh) = before)

theorem State.CarriesSince.of_step {s t : State} {p : Pending} {before : Word × Word}
    (hs : s.CarriesSince p before) (quiet : s.endsResult = false) (h : step s = .next t) : t.CarriesSince p before := by
  obtain ⟨⟨pend, busy⟩ | ⟨empty, idle, done⟩, same⟩ := hs
  · obtain ⟨pend', busy', res, resh⟩ | ⟨-, empty, idle, done⟩ | reset := step_of_pending pend busy h
    · exact ⟨.inl ⟨pend', busy'⟩, fun _ => by rw [res, resh, same busy]⟩
    · exact ⟨.inr ⟨empty, idle, done⟩, fun busy => by simp [idle] at busy⟩
    · simp [State.endsResult_reset reset] at quiet
  · obtain ⟨empty', idle', res, resh⟩ := step_of_empty empty idle quiet h
    exact ⟨.inr ⟨empty', idle', by rw [res, resh, done]⟩, fun busy => by simp [idle'] at busy⟩

/-! ## Runs: a property kept step by step, and the slots taken -/

/-- What holds at the start of a run and is kept by each of its steps holds at its end. -/
theorem runSteps_keeps {s t : State} {P : State → Prop} {k : Nat} (start : P s)
    (keeps : ∀ (j : Nat) (u v : State), j < k → runSteps j s = .next u → P u → step u = .next v → P v)
    (run : runSteps k s = .next t) : P t := by
  induction k generalizing s with
  | zero => cases run; exact start
  | succ k ih =>
    obtain ⟨u, first⟩ := step_total s
    refine ih (keeps 0 s u k.succ_pos rfl start first) (fun j v w hj prior => ?_) ((runSteps_succ first).symm.trans run)
    exact keeps (j + 1) v w (Nat.succ_lt_succ hj) ((runSteps_succ first).trans prior)

theorem exists_runSteps_drop (k : Nat) (s : State) : ∃ t, runSteps k s = .next t ∧ t.schedule = s.schedule.drop k := by
  induction k generalizing s with
  | zero => exact ⟨s, rfl, rfl⟩
  | succ k ih =>
    obtain ⟨u, first⟩ := step_total s
    obtain ⟨t, run, schedule⟩ := ih u
    exact ⟨t, (runSteps_succ first).trans run, by rw [schedule, step_schedule first, List.drop_tail]⟩

/-- Settles O57: `State.CarriesSince` holds from the issue on, and every step that neither resets nor issues
keeps it. -/
theorem resultHeldUntilNextCommand : Obligations.ResultHeldUntilNextCommand := by
  intro s op a b k pend busy quiet
  have issued : s.CarriesSince ⟨op, a, b⟩ (s.res, s.resh) := ⟨.inl ⟨pend, busy⟩, fun _ => rfl⟩
  obtain ⟨t, run, schedule⟩ := exists_runSteps_drop k s
  obtain ⟨⟨pend, busy⟩ | done, same⟩ :=
    runSteps_keeps issued (fun j u _ hj prior carried => carried.of_step (quiet j u hj prior)) run
  · obtain ⟨res, resh⟩ := Prod.mk.inj (same busy)
    exact ⟨t, run, schedule, .inl ⟨pend, busy, res, resh⟩⟩
  · exact ⟨t, run, schedule, .inr done⟩

/-- Settles O59: once every slot is taken, one more step completes what is pending. -/
theorem pendingCommandCompletes : Obligations.PendingCommandCompletes := by
  intro s
  obtain ⟨t, run, schedule⟩ := exists_runSteps_drop s.schedule.length s
  rw [List.drop_length] at schedule
  exact ⟨s.schedule.length + 1, t.complete, le_rfl, (runSteps_add run).trans (runSteps_succ (step_nil schedule)),
    t.complete_pend⟩

/-! ## Who reads RES and RESH (R16, R119) -/

/-- The state with other words in RES and RESH. -/
def State.withResults (s : State) (r h : Word) : State := { s with res := r, resh := h }

theorem State.readReg_withResults {n : RegNum} (s : State) (r h : Word) (lo : n ≠ 2#4) (hi : n ≠ 3#4) :
    (s.withResults r h).readReg n = s.readReg n := by
  unfold State.readReg
  split
  case h_3 two => exact absurd (BitVec.eq_of_toNat_eq two) lo
  case h_4 three => exact absurd (BitVec.eq_of_toNat_eq three) hi
  all_goals rfl

theorem exec_withResults {i : Instr} {s t : State} (r h : Word) (lo : i ≠ .regrd 2#4) (hi : i ≠ .regrd 3#4)
    (moves : exec i s = .next t) : exec i (s.withResults r h) = .next (t.withResults r h) := by
  obtain ⟨n, rfl, rfl⟩ | ⟨w, rfl, rfl⟩ | ⟨w, rfl, rfl⟩ | ⟨w, rfl, rfl⟩ | ⟨ignored, rfl⟩ | ⟨busy, writes, rfl⟩ |
    ⟨idle, rfl | ⟨c, rfl, hv⟩, rfl⟩ | ⟨idle, ⟨c, rfl, hv⟩, rfl⟩ | ⟨idle, op, rfl | ⟨c, rfl, hv⟩, rfl⟩ :=
    exec_cases moves
  · rw [exec_regrd, State.readReg_withResults s r h (fun two => lo (congrArg _ two)) fun three => hi (congrArg _ three)]
    rfl
  iterate 3 · rfl
  · exact exec_of_ignored ignored _
  · exact exec_of_writesCmd_busy writes busy
  · exact congrArg Host.Outcome.next (State.command_idle id idle)
  · exact execRegwrCmd_nop idle hv
  · exact execRegwrCmd_illegal idle hv
  · exact exec_instr_of_idle op idle
  · exact execRegwrCmd_issue idle hv

/-- Settles O54: of the instructions only a read looks at RES or RESH, and a completion overwrites both. -/
theorem resultsFeedNoCommand : Obligations.ResultsFeedNoCommand := by
  refine fun s r h => ⟨fun i t lo hi => exec_withResults r h lo hi, fun pending => ?_⟩
  obtain ⟨p, pend⟩ := Option.ne_none_iff_exists'.1 pending
  rw [State.complete_some pend, State.complete_some (s := { s with res := r, resh := h }) pend]

/-- The host reads RES and then RESH. -/
theorem exists_runs_read_results (s : State) :
    ∃ t, Runs [.host (readTxn 2#4), .host (readTxn 3#4)] s t ∧ t.reads = s.reads ++ [s.res, s.resh] :=
  ⟨_, (Runs.read 2#4 s).append (.read 3#4 _), List.append_assoc _ _ _⟩

/-- Settles O55: the two reads answer what RES and RESH hold, before a completion and after it. -/
theorem earlyReadSeesOldOrNew : Obligations.EarlyReadSeesOldOrNew := by
  intro s p rest pend
  obtain ⟨t, early, old⟩ := exists_runs_read_results s
  obtain ⟨u, late, new⟩ := exists_runs_read_results s.complete
  obtain ⟨res, resh⟩ := State.complete_results pend
  refine ⟨⟨_, early.runSteps_eq rest, old⟩, ⟨_, (Runs.core late).runSteps_eq rest, ?_⟩⟩
  exact new.trans (by rw [res, resh, s.complete_reads])

end Sys2Proof.Machine
end

section
/-! Proofs of the family other, its third part. A word as an element of GF(2)[x]/P: `fieldMul` and exclusive or are the
ring's product and sum, so R91's laws are the ring's. P is irreducible by Rabin's test, run on words. -/

namespace Sys2Proof.Machine

open Polynomial

/-! ## The carryless product (00_scope.md R7) -/

/-- One more element that a count meets changes the count's parity. -/
theorem decide_countP_range_succ_odd (p : Nat → Bool) (i : Nat) :
    decide ((List.range (i + 1)).countP p % 2 = 1) = (decide ((List.range i).countP p % 2 = 1) ^^ p i) := by
  rw [List.range_succ, List.countP_append, List.countP_singleton]
  cases p i with
  | false => simp
  | true =>
    rw [if_pos rfl, Bool.xor_true, ← decide_not]
    exact decide_eq_decide.2 (by omega)

/-- Each bit of `a` below `i` adds its partial product. -/
theorem clmulUpTo_getLsbD {m n : Nat} (a : BitVec m) (b : BitVec n) (k : Nat) {i : Nat} (h : i ≤ m) :
    (clmulUpTo a b i).getLsbD k =
      decide (((List.range i).countP fun j => a.getLsbD j && (decide (j ≤ k) && b.getLsbD (k - j))) % 2 = 1) := by
  induction i with
  | zero => simp [clmulUpTo]
  | succ i ih =>
    have shifted : (b.setWidth (m + n) <<< i).getLsbD k = (decide (i ≤ k) && b.getLsbD (k - i)) := by
      rw [BitVec.getLsbD_shiftLeft, BitVec.getLsbD_setWidth]
      by_cases inside : k < m + n
      · have below : k - i < m + n := by omega
        simp [inside, below, ← decide_not]
      · simp [inside, BitVec.getLsbD_of_ge b (k - i) (by omega)]
    rw [clmulUpTo_succ, decide_countP_range_succ_odd, BitVec.getLsbD_xor, ih (by omega)]
    cases a.getLsbD i with
    | false => simp
    | true => rw [if_pos rfl, shifted, Bool.true_and]

/-- Settles O30: all the bits of `a` give all the partial products. -/
theorem clmulBits : Obligations.ClmulBits := fun _ _ k a b => clmulUpTo_getLsbD a b k le_rfl

/-- Settles O31: the lemma on the product's polynomial. -/
theorem clmulIsPolynomialProduct : Obligations.ClmulIsPolynomialProduct := fun _ _ => polyOf_clmul

theorem polyOf_one {n : Nat} (h : 0 < n) : polyOf (1#n) = 1 := by
  rw [← BitVec.twoPow_zero, polyOf_twoPow h, pow_zero]

theorem clmul_comm (a b : Word) : clmul a b = clmul b a :=
  polyOf_injective (by rw [polyOf_clmul, polyOf_clmul, mul_comm])

theorem clmul_zero (a : Word) : clmul a 0#128 = 0#256 :=
  polyOf_injective (by rw [polyOf_clmul, polyOf_zero, polyOf_zero, mul_zero])

theorem clmul_one (a : Word) : clmul a 1#128 = a.setWidth 256 :=
  polyOf_injective (by rw [polyOf_clmul, polyOf_one (by omega), mul_one, polyOf_setWidth_of_le a (by omega)])

/-! ## Words as elements of GF(2)[x]/P (00_scope.md R4, 42_multiplier.md R84) -/

/-- The element that a word stands for. -/
noncomputable def fieldOf (w : Word) : AdjoinRoot fieldPolynomial := AdjoinRoot.mk fieldPolynomial (polyOf w)

/-- Stated of P as a constant: with P unfolded, the two ways to see GF(2) as a ring are slow to compare. -/
theorem mk_fieldPolynomial_eq_iff {p q : (ZMod 2)[X]} :
    AdjoinRoot.mk fieldPolynomial p = AdjoinRoot.mk fieldPolynomial q ↔ fieldPolynomial ∣ p - q := by
  generalize fieldPolynomial = f
  exact AdjoinRoot.mk_eq_mk

theorem mk_modByMonic_fieldPolynomial (p : (ZMod 2)[X]) :
    AdjoinRoot.mk fieldPolynomial (p %ₘ fieldPolynomial) = AdjoinRoot.mk fieldPolynomial p := by
  generalize fieldPolynomial = f
  exact AdjoinRoot.mk_eq_mk.2 (dvd_modByMonic_sub p f)

theorem fieldOf_pmod {n : Nat} (v : BitVec n) : fieldOf (pmod v) = AdjoinRoot.mk fieldPolynomial (polyOf v) := by
  rw [fieldOf, polyOf_pmod, mk_modByMonic_fieldPolynomial]

/-- Two words of the same element differ by a word whose polynomial P divides, which is of smaller degree. -/
theorem fieldOf_injective : Function.Injective fieldOf := by
  intro a b same
  rw [fieldOf, fieldOf, mk_fieldPolynomial_eq_iff, CharTwo.sub_eq_add, ← polyOf_xor] at same
  have zero : a ^^^ b = 0#128 := eq_zero_of_dvd_polyOf_mul_X_pow (k := 0) isCoprime_fieldPolynomial_X
    degree_fieldPolynomial (by rwa [pow_zero, mul_one])
  exact BitVec.xor_eq_zero_iff.1 zero

@[simp] theorem fieldOf_zero : fieldOf 0#128 = 0 := by rw [fieldOf, polyOf_zero, map_zero]

@[simp] theorem fieldOf_one : fieldOf 1#128 = 1 := by rw [fieldOf, polyOf_one (by omega), map_one]

@[simp] theorem fieldOf_xor (a b : Word) : fieldOf (a ^^^ b) = fieldOf a + fieldOf b := by
  rw [fieldOf, polyOf_xor, map_add]; rfl

@[simp] theorem fieldOf_fieldMul (a b : Word) : fieldOf (fieldMul a b) = fieldOf a * fieldOf b := by
  rw [fieldMul_eq_pmod_clmul, fieldOf_pmod, polyOf_clmul, map_mul]; rfl

/-- Settles O32: a word congruent to `v` modulo P stands for the same element as `pmod v`. -/
theorem pmodIsRemainder : Obligations.PmodIsRemainder := by
  refine fun n v => ⟨polyOf_pmod v, fun r congruent => fieldOf_injective ?_⟩
  rw [fieldOf_pmod, fieldOf, eq_comm, mk_fieldPolynomial_eq_iff]
  exact congruent

/-! ## The laws of the products (42_multiplier.md R91) -/

theorem fieldMul_comm (a b : Word) : fieldMul a b = fieldMul b a :=
  fieldOf_injective (by rw [fieldOf_fieldMul, fieldOf_fieldMul, mul_comm])

theorem fieldMul_assoc (a b c : Word) : fieldMul (fieldMul a b) c = fieldMul a (fieldMul b c) :=
  fieldOf_injective (by simp only [fieldOf_fieldMul, mul_assoc])

theorem fieldMul_xor_left (a c b : Word) : fieldMul (a ^^^ c) b = fieldMul a b ^^^ fieldMul c b :=
  fieldOf_injective (by simp only [fieldOf_fieldMul, fieldOf_xor, add_mul])

theorem fieldMul_zero (a : Word) : fieldMul a 0#128 = 0#128 :=
  fieldOf_injective (by rw [fieldOf_fieldMul, fieldOf_zero, mul_zero])

theorem fieldMul_one (a : Word) : fieldMul a 1#128 = a :=
  fieldOf_injective (by rw [fieldOf_fieldMul, fieldOf_one, mul_one])

/-- Settles O41: the laws of the polynomials for `clmul`, and those of GF(2)[x]/P for `fieldMul`. -/
theorem productsCommuteAndDistribute : Obligations.ProductsCommuteAndDistribute :=
  ⟨fun a b => ⟨fieldMul_comm a b, clmul_comm a b⟩, fun a b c => ⟨fieldMul_xor_left a c b, clmul_xor_left a c b⟩,
    fun a => ⟨fieldMul_zero a, fieldMul_one a, clmul_zero a, clmul_one a⟩⟩

/-- Settles O42: the product of GF(2)[x]/P is associative. -/
theorem fieldMulAssociative : Obligations.FieldMulAssociative := fieldMul_assoc

/-! ## P is irreducible (00_scope.md R4), by Rabin's test -/

/-- The square in the field (R93). -/
def fieldSquare (w : Word) : Word := fieldMul w w

theorem fieldOf_iterate_fieldSquare (w : Word) (k : Nat) : fieldOf (fieldSquare^[k] w) = fieldOf w ^ 2 ^ k := by
  induction k with
  | zero => simp
  | succ k ih => rw [Function.iterate_succ_apply', fieldSquare, fieldOf_fieldMul, ih, pow_succ, pow_mul, sq]

theorem fieldOf_two : fieldOf 2#128 = AdjoinRoot.mk fieldPolynomial X := by
  have x : polyOf (2#128) = X := (polyOf_twoPow (n := 128) (k := 1) (by omega)).trans (pow_one X)
  rw [fieldOf, x]

section
variable {k : Nat} {w : Word} (power : fieldSquare^[k] 2#128 = w)
include power

/-- Squaring x `k` times gives x^(2^k). -/
theorem mk_X_pow_eq_fieldOf : AdjoinRoot.mk fieldPolynomial (X ^ 2 ^ k) = fieldOf w := by
  rw [← power, fieldOf_iterate_fieldSquare, fieldOf_two, map_pow]

theorem fieldPolynomial_dvd_X_pow_sub_X (cycle : w = 2#128) : fieldPolynomial ∣ X ^ 2 ^ k - X := by
  rw [← mk_fieldPolynomial_eq_iff, mk_X_pow_eq_fieldOf power, cycle, fieldOf_two]

/-- An inverse of x^(2^k) - x modulo P tells that P is prime to it. -/
theorem isCoprime_fieldPolynomial_X_pow_sub_X {inverse : Word} (unit : fieldMul (w ^^^ 2#128) inverse = 1#128) :
    IsCoprime fieldPolynomial (X ^ 2 ^ k - X) := by
  have one : AdjoinRoot.mk fieldPolynomial ((X ^ 2 ^ k - X) * polyOf inverse) = AdjoinRoot.mk fieldPolynomial 1 := by
    rw [map_mul, CharTwo.sub_eq_add, map_add, mk_X_pow_eq_fieldOf power, ← fieldOf_two, ← fieldOf_xor, map_one,
      ← fieldOf_one, ← unit, fieldOf_fieldMul]
    rfl
  obtain ⟨quotient, split⟩ := mk_fieldPolynomial_eq_iff.1 one
  exact ⟨-quotient, polyOf inverse, by linear_combination split⟩

end

/-- The word of x^(2^64), after half of the 128 squarings that lead back to x. -/
def halfCycle : Word := 0x61651fea6b5832b944e598a795a299f6#128

theorem fieldSquare_iterate_two : fieldSquare^[64] 2#128 = halfCycle := by decide +kernel

theorem fieldSquare_iterate_halfCycle : fieldSquare^[64] halfCycle = 2#128 := by decide +kernel

theorem fieldSquare_cycle : fieldSquare^[128] 2#128 = 2#128 := by
  rw [Function.iterate_add_apply fieldSquare 64 64, fieldSquare_iterate_two, fieldSquare_iterate_halfCycle]

theorem fieldMul_halfCycle_inverse :
    fieldMul (halfCycle ^^^ 2#128) 0x9e4af928ddbc838a41a8cafd2c95b018#128 = 1#128 := by decide +kernel

/-- The irreducible polynomials over GF(2) that divide x^(2^k) - x. -/
theorem natDegree_dvd_iff_dvd_X_pow_sub_X {q : (ZMod 2)[X]} (irreducible : Irreducible q) (k : Nat) :
    q.natDegree ∣ k ↔ q ∣ X ^ 2 ^ k - X := by
  rw [irreducible.natDegree_dvd_iff_dvd_X_pow_card_pow_sub_X, Nat.card_zmod]

/-- Rabin's test: an irreducible factor of P has a degree that divides 128 and not 64, so degree 128 = 2^7. -/
theorem natDegree_of_irreducible_of_dvd {q : (ZMod 2)[X]} (irreducible : Irreducible q) (factor : q ∣ fieldPolynomial) :
    q.natDegree = 128 := by
  have divides : q.natDegree ∣ 2 ^ 7 := (natDegree_dvd_iff_dvd_X_pow_sub_X irreducible 128).2
    (factor.trans (fieldPolynomial_dvd_X_pow_sub_X fieldSquare_cycle rfl))
  have not_divides : ¬ q.natDegree ∣ 2 ^ 6 := fun h => irreducible.not_isUnit
    ((isCoprime_fieldPolynomial_X_pow_sub_X fieldSquare_iterate_two fieldMul_halfCycle_inverse).isUnit_of_dvd' factor
      ((natDegree_dvd_iff_dvd_X_pow_sub_X irreducible 64).1 h))
  exact Nat.eq_prime_pow_of_dvd_least_prime_pow Nat.prime_two not_divides divides

theorem irreducible_fieldPolynomial : Irreducible fieldPolynomial := by
  obtain ⟨q, irreducible, factor⟩ := exists_irreducible_of_degree_pos (f := fieldPolynomial) (by
    rw [degree_fieldPolynomial]; decide)
  have degree : fieldPolynomial.natDegree ≤ q.natDegree := by
    rw [natDegree_of_irreducible_of_dvd irreducible factor, natDegree_eq_of_degree_eq_some degree_fieldPolynomial]
  exact (associated_of_dvd_of_natDegree_le factor monic_fieldPolynomial.ne_zero degree).irreducible irreducible

/-- Multiplication by a nonzero word is injective, the field having no zero divisors. -/
theorem fieldMul_injective {a : Word} (h : a ≠ 0#128) : Function.Injective (fieldMul a) := by
  have := AdjoinRoot.isDomain_of_prime irreducible_fieldPolynomial.prime
  have nonzero : fieldOf a ≠ 0 := fun zero => h (fieldOf_injective (zero.trans fieldOf_zero.symm))
  intro b c same
  have products : fieldOf a * fieldOf b = fieldOf a * fieldOf c := by
    rw [← fieldOf_fieldMul, same, fieldOf_fieldMul]
  exact fieldOf_injective (mul_left_cancel₀ nonzero products)

/-- Settles O43: an injective map of the finitely many words is a bijection, so 1 has exactly one preimage. -/
theorem fieldMulInverses : Obligations.FieldMulInverses :=
  ⟨fun _ h => (Finite.injective_iff_bijective.1 (fieldMul_injective h)).existsUnique 1#128, by decide +kernel⟩

end Sys2Proof.Machine
end
